-- ==== Sys2Proof/Word.lean ====
section
/-! DEFINITION. The two word types of the block (R6): the 16-bit accumulator or table entry, and the 8-bit byte. -/

namespace Sys2Proof

/-- The accumulator and every table entry: "unsigned 16-bit" (R6, R12). -/
abbrev Word := BitVec 16

/-- An input byte, a table index or a byte of the buffer: 8 bits (R6). -/
abbrev Byte := BitVec 8

end Sys2Proof
end

