-- ==== Sys2Proof/Machine/Operands.lean ====
section
/-! DEFINITION. How the operands of a byte-update are combined (R53, R91, R92): the table index and the shifted form
of the accumulator, one definition per variant (R95). There are no immediates, no register numbers and no flags
(R16, R53), so there is no flag computation in this package. -/

namespace Sys2Proof.Machine

/-- `v[7:0]` (R8). -/
def lowByte (v : Word) : Byte := v.extractLsb' 0 8

/-- `v[15:8]` (R8). -/
def highByte (v : Word) : Byte := v.extractLsb' 8 8

/-- `zext_16` of a byte (R53). -/
def zext16 (b : Byte) : Word := b.setWidth 16

/-- `idx <- (crc_in ^ zext_16(byte_in)) & 0x00FF`, as the 8-bit value it is (R91). -/
def indexCcitt (crc : Word) (byte : Byte) : Byte := lowByte ((crc ^^^ zext16 byte) &&& 0x00FF)

/-- `idx <- (crc_in >> 8)[7:0] ^ byte_in` (R92). -/
def indexFalse (crc : Word) (byte : Byte) : Byte := lowByte (crc >>> 8) ^^^ byte

/-- `crc_in >> 8`: the high byte moved down, the high byte zero (R91). -/
def shiftedCcitt (crc : Word) : Word := crc >>> 8

/-- `crc_in << 8`: the low byte moved up; the bits pushed past bit 15 are dropped (R92). -/
def shiftedFalse (crc : Word) : Word := crc <<< 8

end Sys2Proof.Machine
end

