-- ==== Sys2Proof/Config.lean ====
section
/-! DEFINITION. What an implementation fixes (the address width) and the free values (which agent moves, which byte an unstable buffer gives). None has a body, so no proof can see its value. -/

namespace Sys2Proof

/-- One less than the address width, so that `AW >= 1` holds by construction (R7). DESIGN CHOICE, log entry 2, safe. -/
opaque Config.addrWidthPred : Nat

/-- `AW`, the address width in bits, an OPEN parameter; the length width `LW` is the same number (R7, R22). -/
def Config.addrWidth : Nat := Config.addrWidthPred + 1

/-- FREE VALUE: which of several enabled agents moves at the n-th move of the machine (R38 (d), U14). DESIGN CHOICE, log
entry 6, safe. -/
opaque Config.serve : Nat → Nat

/-- FREE VALUE: which of the bytes that a buffer address held is consumed where a caller broke the stability duty
(R39, U11). DESIGN CHOICE, log entry 7. -/
opaque Config.heldByte : Nat → Nat

end Sys2Proof
end

