-- ==== Sys2Proof/Syntax.lean ====
section
/-! DEFINITION. The six operations (R2), the two variants (R51), and the request as a caller presents it (R50). -/

namespace Sys2Proof

/-- `cmd[2]` of a request and the `variant` bit of a working state (R18, R51). -/
inductive Variant where
  | ccitt       -- 0: table `T_ccitt`, right-shift byte-update
  | ccittFalse  -- 1: table `T_false`, left-shift byte-update
  deriving DecidableEq, Repr

/-- The six operations with the operands their format reads, in the order of the written form of R58 (DESIGN CHOICE, log
entry 18, safe: no strings).
An operand that a format ignores (R52) is no argument. `addr` has `AW` bits and `len` has `LW = AW` bits (R7, R50), so
that both are below `2^AW` in every instruction (R53). -/
inductive Instr where
  | crc16CcittLookupTable (index : Byte)
  | crc16CcittByteUpdate (crc : Word) (byte : Byte)
  | crc16CcittBufferUpdate (seed : Word) (addr len : BitVec Config.addrWidth)
  | crc16CcittFalseLookupTable (index : Byte)
  | crc16CcittFalseByteUpdate (crc : Word) (byte : Byte)
  | crc16CcittFalseBufferUpdate (seed : Word) (addr len : BitVec Config.addrWidth)
  deriving DecidableEq, Repr

/-- The mnemonic of an operation (R2, R58). -/
def Instr.mnemonic : Instr → String
  | .crc16CcittLookupTable _ => "crc16_ccitt_lookup_table"
  | .crc16CcittByteUpdate _ _ => "crc16_ccitt_byte_update"
  | .crc16CcittBufferUpdate _ _ _ => "crc16_ccitt_buffer_update"
  | .crc16CcittFalseLookupTable _ => "crc16_ccitt_false_lookup_table"
  | .crc16CcittFalseByteUpdate _ _ => "crc16_ccitt_false_byte_update"
  | .crc16CcittFalseBufferUpdate _ _ _ => "crc16_ccitt_false_buffer_update"

/-- A request with addresses of `aw` bits: the five fields of R50, each of its width. Every request has this shape (R57).
The block's requests are `Request Config.addrWidth`; another width serves to try a concrete one. -/
structure Request (aw : Nat) where
  cmd    : BitVec 3
  crcIn  : Word
  byteIn : Byte
  addr   : BitVec aw
  len    : BitVec aw
  deriving DecidableEq, Repr

/-- Why a request names no operation. -/
inductive DecodeError where
  /-- `cmd` is 0b011 or 0b111 (R55). -/
  | reservedCmd
  deriving DecidableEq, Repr

end Sys2Proof
end

