-- ==== Sys2Proof/Machine/State.lean ====
section
/-! DEFINITION. The state: the buffer-updates in progress, which are all that the block itself holds (R18, R21), and
beside them what the outside world holds and the step must read: the buffer memory, what callers will present, the
responses delivered (DESIGN CHOICE, log entry 1, safe). The tables are constants, not state (R11): Machine/Tables.lean. -/

namespace Sys2Proof.Machine

/-- The caller's buffer memory (R30): the readable byte addresses, each with its byte, in rising order of address. An
unlisted address is one the block cannot read (R35). DESIGN CHOICE, log entry 3, safe. -/
abbrev Memory := List Host.Cell

/-- The canonical form of a memory: addresses strictly rising. (An unlisted address reads as no byte, so no entry can
equal it.) -/
abbrev Memory.wf (m : Memory) : Prop := m.Pairwise (fun c d => c.1 < d.1)

/-- The working state of one buffer-update between `accept` and `deliver` (R18, R115). -/
structure Work where
  variant : Variant
  /-- the running accumulator -/
  acc     : Word
  /-- the number of bytes consumed so far, never above `len` (R15; `State.Inv`) -/
  idx     : Nat
  /-- the operand `len` as a number, below `2^LW` (R53; `State.Inv`) -/
  len     : Nat
  /-- the operand `addr` as a number, below `2^AW` (R53; `State.Inv`) -/
  addr    : Nat
  /-- which request this is the state of (the model's own: DESIGN CHOICE, log entry 5) -/
  ticket  : Nat
  /-- bytes of the buffer overwritten since acceptance, the latest first; empty while the caller keeps its duty of
  R39 (the model's own: DESIGN CHOICE, log entry 7) -/
  held    : List Host.Cell
  deriving DecidableEq, Repr

/-- A response: the field `crc_out` (R50), with the ticket of the request it answers (the ticket is the model's own: DESIGN
CHOICE, log entry 5). -/
structure Response where
  ticket : Nat
  crcOut : Word
  deriving DecidableEq, Repr

/-- Which byte of a 16-bit response a caller takes where a byte is needed. -/
inductive Half where
  | low
  | high
  deriving DecidableEq, Repr

/-- The later operand that a caller makes of a response (R58). -/
inductive Slot where
  /-- none: what is presented only waits, its operands being what the caller's own logic makes of the response -/
  | wait
  | crcIn
  | byteIn (h : Half)
  | addr
  | len
  /-- the byte that the caller writes into its memory -/
  | written (h : Half)
  deriving DecidableEq, Repr

/-- A use of an earlier response, that to the request with this ticket, as a later operand (R12, R58). What has a link
cannot be presented before that response exists (R154). -/
structure Link where
  ticket : Nat
  slot   : Slot
  deriving DecidableEq, Repr

/-- What the outside world does to the block. -/
inductive Event where
  /-- A caller presents a request (R50), with the earlier responses that it uses in place of operands. -/
  | request (links : List Link) (r : Request Config.addrWidth)
  /-- A caller fills a byte of its memory, or (`none`) withdraws it (R30, R37). -/
  | callerWrite (links : List Link) (addr : Nat) (v : Option Byte)
  /-- Reset (R150, R151). -/
  | reset
  deriving DecidableEq, Repr

/-- What R22 calls a parameter of the model and not state of the block: what a run is given from outside. -/
structure Parameters where
  /-- the contents of the buffer memory, which belong to the caller (R22, R30) -/
  mem      : Memory
  /-- what callers will present, in order: "the order in which callers present requests" (R22); DESIGN CHOICE, log
  entry 4 -/
  inputs   : List Event
  /-- which of several enabled transitions is taken first (R22, R38), as far as it is given; where it ends,
  `Config.serve` chooses (DESIGN CHOICE, log entry 6) -/
  schedule : List Nat
  deriving DecidableEq, Repr

/-- What an observer of the run records. -/
structure Record where
  /-- the responses delivered, oldest first (R50) -/
  responses : List Response
  /-- how many requests were accepted or answered, which is the next ticket; a refused request counts for nothing and
  uses up no ticket (the model's own: DESIGN CHOICE, log entry 5) -/
  accepted  : Nat
  /-- the moves made, the argument of the free values (the model's own: DESIGN CHOICE, log entry 6) -/
  turn      : Nat
  deriving DecidableEq, Repr

/-- The state of the block, all of it (R13, R18, R21). No parameter of R22 is a field of it: the block's operations
(`Block.begin`, `Block.byteStep`, `Block.deliver`, `Block.enabled` and the others of Machine/Ops.lean and
Machine/Engine.lean) take the memory and the choices as arguments. -/
structure Block where
  /-- the buffer-updates in progress, oldest first (R18, R38) -/
  works : List Work
  deriving DecidableEq, Repr

/-- The block after reset: no buffer-update is in progress (R21). -/
def Block.reset : Block := { works := [] }

/-- What the host steps: the block, closed with the parameters that its run still has before it (R22) and with the
record of what it delivered. The host's `step` is a function of one state and is given nothing beside it, so the
parameters stand next to the block here. DESIGN CHOICE, log entry 1, safe. -/
structure State extends Parameters, Record, Block
  deriving DecidableEq, Repr

/-- The machine after reset when its run is given the parameters `p` (R21, R22, R150): no buffer-update is in progress,
there is nothing else in the block to reset, and nothing was delivered so far (DESIGN CHOICE, log entry 5). The model has
one such machine for every `p`, and fixes none of them. -/
def State.resetWith (p : Parameters) : State where
  toParameters := p
  toBlock      := Block.reset
  responses    := []
  accepted     := 0
  turn         := 0

/-- The one of these machines that the host starts with, since it is given no parameters: nothing presented, no choice
made, no byte readable (DESIGN CHOICE, log entries 1, 3, 4, 6, unsafe for a claim that rests on them). -/
def State.reset : State := State.resetWith { mem := [], inputs := [], schedule := [] }

/-- Why the machine stops with no transition to take. -/
inductive Fault where
  /-- Raised by `step` when buffer-updates are in progress, each of them at a byte that cannot be read, and no caller
  can present anything: no transition is enabled (R35, R115, R133). Safe: the spec gives no step. -/
  | stuck
  /-- Raised by the event `callerWrite` at an address of `2^AW` or above, which does not exist (R31). Safe. -/
  | noSuchAddress
  deriving DecidableEq, Repr

/-- Why a request has no meaning (R133). -/
inductive Refusal where
  /-- An instruction without a meaning yet. Raised by no arm of this model. Safe. -/
  | notModelled (mnemonic : String)
  /-- Raised by `step` for a request whose `cmd` is 0b011 or 0b111 (R55). Safe: the spec refuses it. -/
  | reservedCmd
  /-- Raised by the two buffer-updates where `addr + len > 2^AW` (R34). Safe: the spec refuses it. -/
  | range
  deriving DecidableEq, Repr

/-- The outcomes of a step or of a meaning. -/
abbrev Result := Host.Outcome State Fault Refusal

end Sys2Proof.Machine
end

