-- ==== Sys2Proof/Machine/Ops.lean ====
section
/-! DEFINITION. The named operations over the state: reading and (for the caller) writing the buffer memory, the range
condition, delivering a response, accepting a buffer-update. No exception exists (R130, R135), so there is no
exception entry and no return from one. -/

namespace Sys2Proof.Machine

/-! ## The buffer memory -/

/-- `MemRead(a, 1)` (R31); `none` where the byte is not readable (R35). -/
def Memory.read : Memory → Nat → Option Byte
  | [], _ => none
  | c :: m, a => if c.1 = a then some c.2 else Memory.read m a

/-- The memory after its owner, the caller, filled the byte at `a` (`some`) or withdrew it (`none`); R30, R37. The
block itself never writes (R36). -/
def Memory.set : Memory → Nat → Option Byte → Memory
  | [], _, none => []
  | [], a, some b => [(a, b)]
  | c :: m, a, v =>
    if a < c.1 then
      match v with
      | none => c :: m
      | some b => (a, b) :: c :: m
    else if a = c.1 then
      match v with
      | none => m
      | some b => (a, b) :: m
    else c :: Memory.set m a v

/-- The `n` bytes from address `a` upward, in ascending order (R31); `none` if one of them is not readable. -/
def Memory.buffer (m : Memory) (a : Nat) : Nat → Option (List Byte)
  | 0 => some []
  | n + 1 =>
    match m.read a, m.buffer (a + 1) n with
    | some b, some bs => some (b :: bs)
    | _, _ => none

/-- The range condition of R34, `addr + len <= 2^aw` in natural numbers: the buffer is empty at address 0, or its end
`n + 1` has a last address `n` inside the space. -/
def inRange (aw addr len : Nat) : Bool :=
  match addr + len with
  | 0 => true
  | n + 1 => decide (n < 2 ^ aw)

/-! ## Choosing among alternatives the spec leaves open -/

/-- One of `x :: ys`, named by the number `c`; if there is no alternative, `c` is not looked at. -/
def choose {α : Type} (c : Nat) (x : α) : List α → α
  | [] => x
  | y :: ys => (x :: y :: ys).getD (c % (ys.length + 2)) x

/-! ## Taking up a request -/

/-- A request answered at once: its response is delivered, and nothing else changes (R4, R50, R155). -/
def State.respond (s : State) (crcOut : Word) : State :=
  { s with
    responses := s.responses ++ [{ ticket := s.accepted, crcOut }]
    accepted := s.accepted + 1 }

/-- The working state of a buffer-update just accepted: `(v, seed, 0, len, addr)` (R115). -/
def Work.start (v : Variant) (seed : Word) (addr len ticket : Nat) : Work :=
  { variant := v, acc := seed, idx := 0, len, addr, ticket, held := [] }

/-- The block with one more buffer-update in progress (R115). -/
def Block.begin (b : Block) (w : Work) : Block := { works := b.works ++ [w] }

/-- `accept` of R115 with addresses of `aw` bits: refused when the buffer leaves the address space (R34), before any
byte is read (R134). From here on `addr` and `len` are natural numbers, both below `2^aw` (R8, R53). -/
def State.accept {aw : Nat} (v : Variant) (seed : Word) (addr len : BitVec aw) (s : State) : Result :=
  if inRange aw addr.toNat len.toNat then
    .next { s with
      toBlock := s.toBlock.begin (Work.start v seed addr.toNat len.toNat s.accepted)
      accepted := s.accepted + 1 }
  else .refused .range

end Sys2Proof.Machine
end

