-- ==== Sys2Proof/Machine/ByteUpdate.lean ====
section
/-! DEFINITION. The byte-update operations: two functions, kept apart (R95), and the two meanings. -/

namespace Sys2Proof.Machine

/-- `byte_update_ccitt` (R91): `(crc_in >> 8) ^ T_ccitt[idx]`. -/
def byteUpdateCcitt (crc : Word) (byte : Byte) : Word := shiftedCcitt crc ^^^ tCcitt (indexCcitt crc byte)

/-- `byte_update_false` (R92): `(crc_in << 8) ^ T_false[idx]`. -/
def byteUpdateFalse (crc : Word) (byte : Byte) : Word := shiftedFalse crc ^^^ tFalse (indexFalse crc byte)

/-- The byte-update of a variant (R115, `step`). -/
def byteUpdate : Variant → Word → Byte → Word
  | .ccitt => byteUpdateCcitt
  | .ccittFalse => byteUpdateFalse

/-- R91. -/
def execCrc16CcittByteUpdate (crc : Word) (byte : Byte) (s : State) : Result := .next (s.respond (byteUpdateCcitt crc byte))

/-- R92. -/
def execCrc16CcittFalseByteUpdate (crc : Word) (byte : Byte) (s : State) : Result :=
  .next (s.respond (byteUpdateFalse crc byte))

end Sys2Proof.Machine
end

