-- ==== Sys2Proof/Machine/BufferUpdate.lean ====
section
/-! DEFINITION. The buffer-update operations: the fold they compute (R110, R111), and their two meanings, which accept
the request; the byte steps and the delivery that follow are transitions of the machine (R115, Machine/Engine.lean; DEDUCED,
log entry 13, safe). -/

namespace Sys2Proof.Machine

/-- `buffer_update_ccitt` (R110): the byte-updates applied from the first byte to the last. -/
def bufferUpdateCcitt (seed : Word) (b : List Byte) : Word := b.foldl byteUpdateCcitt seed

/-- `buffer_update_false` (R111). -/
def bufferUpdateFalse (seed : Word) (b : List Byte) : Word := b.foldl byteUpdateFalse seed

/-- The buffer-update of a variant. -/
def bufferUpdate : Variant → Word → List Byte → Word
  | .ccitt => bufferUpdateCcitt
  | .ccittFalse => bufferUpdateFalse

/-- R110, R115 `accept` for variant 0. -/
def execCrc16CcittBufferUpdate (seed : Word) (addr len : BitVec Config.addrWidth) (s : State) : Result :=
  s.accept .ccitt seed addr len

/-- R111, R115 `accept` for variant 1. -/
def execCrc16CcittFalseBufferUpdate (seed : Word) (addr len : BitVec Config.addrWidth) (s : State) : Result :=
  s.accept .ccittFalse seed addr len

end Sys2Proof.Machine
end

