-- ==== Sys2Proof/Machine/TableLookup.lean ====
section
/-! DEFINITION. The table-lookup operations (R74, R75). -/

namespace Sys2Proof.Machine

/-- R74: `crc_out <- T_ccitt[byte_in]`. -/
def execCrc16CcittLookupTable (index : Byte) (s : State) : Result := .next (s.respond (tCcitt index))

/-- R75: `crc_out <- T_false[byte_in]`. -/
def execCrc16CcittFalseLookupTable (index : Byte) (s : State) : Result := .next (s.respond (tFalse index))

end Sys2Proof.Machine
end

