-- ==== Sys2Proof/Machine/Dispatch.lean ====
section
/-! DEFINITION. The meaning of each instruction: one arm per constructor of Instr. -/

namespace Sys2Proof.Machine

def exec (i : Instr) (s : State) : Host.Outcome State Fault Refusal :=
  match i with
  | .crc16CcittLookupTable index => Sys2Proof.Machine.execCrc16CcittLookupTable index s
  | .crc16CcittByteUpdate crc byte => Sys2Proof.Machine.execCrc16CcittByteUpdate crc byte s
  | .crc16CcittBufferUpdate seed addr len => Sys2Proof.Machine.execCrc16CcittBufferUpdate seed addr len s
  | .crc16CcittFalseLookupTable index => Sys2Proof.Machine.execCrc16CcittFalseLookupTable index s
  | .crc16CcittFalseByteUpdate crc byte => Sys2Proof.Machine.execCrc16CcittFalseByteUpdate crc byte s
  | .crc16CcittFalseBufferUpdate seed addr len => Sys2Proof.Machine.execCrc16CcittFalseBufferUpdate seed addr len s

end Sys2Proof.Machine
end

