-- ==== Sys2Proof/WellFormed.lean ====
section
/-! DEFINITION. Which requests and instructions have a meaning (R55, R56): the widths of all fields are in their types
(R50, R53), so what remains to check is the reserved `cmd` and the range condition of format S (R34). -/

namespace Sys2Proof

/-- `op`, the field `cmd[1:0]` of a request (R51). -/
def Request.op {aw : Nat} (r : Request aw) : BitVec 2 := r.cmd.extractLsb' 0 2

/-- The request has a meaning: its `cmd` is not reserved (R55), and a request of format S satisfies the range condition
(R34, R56). -/
def Request.wf {aw : Nat} (r : Request aw) : Bool :=
  decide (r.op ≠ 0b11) && (decide (r.op ≠ 0b10) || decide (r.addr.toNat + r.len.toNat ≤ 2 ^ aw))

/-- The instruction has a meaning: every operand value is legal, except that the buffer of a buffer-update must lie in
the address space (R34, R56). -/
def Instr.wf : Instr → Bool
  | .crc16CcittLookupTable _ => true
  | .crc16CcittByteUpdate _ _ => true
  | .crc16CcittBufferUpdate _ addr len => decide (addr.toNat + len.toNat ≤ 2 ^ Config.addrWidth)
  | .crc16CcittFalseLookupTable _ => true
  | .crc16CcittFalseByteUpdate _ _ => true
  | .crc16CcittFalseBufferUpdate _ addr len => decide (addr.toNat + len.toNat ≤ 2 ^ Config.addrWidth)

end Sys2Proof
end

