-- ==== Sys2Proof/Decode.lean ====
section
/-! DEFINITION. The decoder of requests (R51, R54, R55), the encoder, and the packing of a request into one string of
bits (the model's own: DESIGN CHOICE, log entry 8), which `decodeTableWord` reads. -/

namespace Sys2Proof

/-! ## From a request to an operation -/

/-- `cmd[2]`, the variant (R51). -/
def variantBit (cmd : BitVec 3) : Bool := cmd.getLsbD 2

/-- `cmd[1:0]`, the operation within the variant (R51). -/
def opField (cmd : BitVec 3) : Nat := (cmd.extractLsb' 0 2).toNat

/-- The opcode map of R54. It reads `cmd` only; the fields a format does not use are ignored (R52). `op = 0b11` is
reserved in both variants (R55). -/
def decode (r : Request Config.addrWidth) : Except DecodeError Instr :=
  match variantBit r.cmd, opField r.cmd with
  | false, 0b00 => .ok (.crc16CcittLookupTable r.byteIn)
  | false, 0b01 => .ok (.crc16CcittByteUpdate r.crcIn r.byteIn)
  | false, 0b10 => .ok (.crc16CcittBufferUpdate r.crcIn r.addr r.len)
  | true, 0b00 => .ok (.crc16CcittFalseLookupTable r.byteIn)
  | true, 0b01 => .ok (.crc16CcittFalseByteUpdate r.crcIn r.byteIn)
  | true, 0b10 => .ok (.crc16CcittFalseBufferUpdate r.crcIn r.addr r.len)
  | false, _ => .error .reservedCmd
  | true, _ => .error .reservedCmd

/-- The request that names `i` (R54), with 0 in every field that its format ignores (R52). -/
def encode : Instr → Request Config.addrWidth
  | .crc16CcittLookupTable index => { cmd := 0b000, crcIn := 0, byteIn := index, addr := 0, len := 0 }
  | .crc16CcittByteUpdate crc byte => { cmd := 0b001, crcIn := crc, byteIn := byte, addr := 0, len := 0 }
  | .crc16CcittBufferUpdate seed addr len => { cmd := 0b010, crcIn := seed, byteIn := 0, addr, len }
  | .crc16CcittFalseLookupTable index => { cmd := 0b100, crcIn := 0, byteIn := index, addr := 0, len := 0 }
  | .crc16CcittFalseByteUpdate crc byte => { cmd := 0b101, crcIn := crc, byteIn := byte, addr := 0, len := 0 }
  | .crc16CcittFalseBufferUpdate seed addr len => { cmd := 0b110, crcIn := seed, byteIn := 0, addr, len }

/-! ## A request as one string of bits, least significant first

DESIGN CHOICE (log entry 8, safe for the machine): `cmd`, `crc_in`, `byte_in`, `addr`, `len` follow one another, the
order of R50's table. -/

/-- The low `n` bits of `v`, bit 0 first. -/
def bitsOfNat : Nat → Nat → List Bool
  | 0, _ => []
  | n + 1, v => (v % 2 == 1) :: bitsOfNat n (v / 2)

/-- The number whose bits, bit 0 first, are given; where the list ends, the bits are 0. -/
def natOfBits : List Bool → Nat
  | [] => 0
  | b :: bs => b.toNat + 2 * natOfBits bs

/-- The five fields laid one after another, with `aw` bits for each of `addr` and `len`. -/
def Request.toBits {aw : Nat} (r : Request aw) : List Bool :=
  bitsOfNat 3 r.cmd.toNat ++ (bitsOfNat 16 r.crcIn.toNat ++ (bitsOfNat 8 r.byteIn.toNat ++
    (bitsOfNat aw r.addr.toNat ++ bitsOfNat aw r.len.toNat)))

/-- The request that a string of bits holds: total, a missing bit being 0 and a bit past the last field ignored. -/
def Request.ofBits (aw : Nat) (bits : List Bool) : Request aw where
  cmd    := BitVec.ofNat 3 (natOfBits (bits.take 3))
  crcIn  := BitVec.ofNat 16 (natOfBits ((bits.drop 3).take 16))
  byteIn := BitVec.ofNat 8 (natOfBits (((bits.drop 3).drop 16).take 8))
  addr   := BitVec.ofNat aw (natOfBits ((((bits.drop 3).drop 16).drop 8).take aw))
  len    := BitVec.ofNat aw (natOfBits (((((bits.drop 3).drop 16).drop 8).drop aw).take aw))

/-- The decoder on packed requests: total on any string of bits. -/
def decodeBits (bits : List Bool) : Except DecodeError Instr := decode (Request.ofBits Config.addrWidth bits)

/-- The packed request that names `i`. -/
def encodeBits (i : Instr) : List Bool := (encode i).toBits

/-! ## The words of spec/opcode_table.json -/

/-- The request whose lowest `nbits` bits are `w` and whose other bits are 0. -/
def requestOfTableWord (nbits w : Nat) : Request Config.addrWidth :=
  Request.ofBits Config.addrWidth (bitsOfNat nbits w)

/-- What the decoder reads from the request whose bits, bit 0 the least significant of `cmd`, are `w`. -/
def decodeTableWord (nbits w : Nat) : Option Instr := (decode (requestOfTableWord nbits w)).toOption

end Sys2Proof
end

