-- ==== Sys2Proof/Machine/Engine.lean ====
section
/-! DEFINITION. The transitions of the machine other than the meaning of an instruction: the byte steps and deliveries
of buffer-updates in progress (R115), what callers do to their memory (R30, R37, R39), reset (R151); which of them are
enabled, and which enabled one moves (R38 (d)). -/

namespace Sys2Proof.Machine

/-! ## What can move -/

/-- A transition that is enabled. -/
inductive Transition where
  /-- a caller presents a request -/
  | present (r : Request Config.addrWidth)
  /-- a caller fills or withdraws a byte of its memory -/
  | callerWrite (a : Nat) (v : Option Byte)
  | reset
  /-- `step` of R115 for the working state `w` at place `k`, consuming byte `b` -/
  | byteStep (k : Nat) (w : Work) (b : Byte)
  /-- `deliver` of R115 for the working state `w` at place `k` -/
  | deliver (k : Nat) (w : Work)
  deriving DecidableEq, Repr

/-- The response to the request with this ticket, if it was delivered. -/
def responseTo (ticket : Nat) (rs : List Response) : Option Word :=
  (rs.find? (fun r => r.ticket == ticket)).map Response.crcOut

/-- The byte of a response that a caller takes. -/
def Half.of : Half → Word → Byte
  | .low => lowByte
  | .high => highByte

/-- A request with the response `v` as the operand that `slot` names (R58). Where a response is used as `addr` or `len`
the caller fits it to the field, zero-extended or cut (DESIGN CHOICE, log entry 19). -/
def Request.put {aw : Nat} : Slot → Word → Request aw → Request aw
  | .wait, _, r => r
  | .crcIn, v, r => { r with crcIn := v }
  | .byteIn h, v, r => { r with byteIn := h.of v }
  | .addr, v, r => { r with addr := v.setWidth aw }
  | .len, v, r => { r with len := v.setWidth aw }
  | .written _, _, r => r

/-- A caller's write with the response `v` as the operand that `slot` names. Where the response is its address the caller
takes all 16 bits as they are, neither cut nor checked, so that with `AW` below 16 the write may be outside the space and
fault (DESIGN CHOICE, log entry 19). -/
def putWrite : Slot → Word → Nat × Option Byte → Nat × Option Byte
  | .wait, _, w => w
  | .crcIn, _, w => w
  | .byteIn _, _, w => w
  | .addr, v, w => (v.toNat, w.2)
  | .len, _, w => w
  | .written h, v, w => (w.1, some (h.of v))

/-- `x` with every linked response in its place; `none` while one of them does not exist (R154). -/
def fill {α : Type} (put : Slot → Word → α → α) (rs : List Response) : List Link → α → Option α
  | [], x => some x
  | l :: ls, x =>
    match responseTo l.ticket rs with
    | some v => fill put rs ls (put l.slot v x)
    | none => none

/-- What callers can do next: the first thing of `inputs`, unless it waits for an earlier response (R154). -/
def State.enabledInput (s : State) : List Transition :=
  match s.inputs with
  | [] => []
  | .request links r :: _ =>
    match fill Request.put s.responses links r with
    | some r' => [.present r']
    | none => []
  | .callerWrite links a v :: _ =>
    match fill putWrite s.responses links (a, v) with
    | some w => [.callerWrite w.1 w.2]
    | none => []
  | .reset :: _ => [.reset]

/-- The address of the next byte (R31). -/
def Work.nextAddr (w : Work) : Nat := w.addr + w.idx

/-- The bytes that address `a` held during the buffer-update and holds no more (R39). -/
def Work.heldAt (w : Work) (a : Nat) : List Byte := (w.held.filter (fun c => c.1 == a)).map Prod.snd

/-- The byte consumed at the next byte step: the one now at the address, `none` when that is not readable (R35). Where
the caller broke its duty it is that byte or one the address held earlier, `choice` saying which (R39). -/
def Work.consumed (choice : Nat) (m : Memory) (w : Work) : Option Byte :=
  (m.read w.nextAddr).map (fun b => choose choice b (w.heldAt w.nextAddr))

/-- The transition of the working state `w` at place `k`, if one is enabled (R115): `deliver` when every byte is
consumed, else `step` when the next byte is readable. -/
def Work.enabled (choice : Nat) (m : Memory) (w : Work) (k : Nat) : Option Transition :=
  if w.idx = w.len then some (.deliver k w)
  else if w.idx < w.len then (w.consumed choice m).map (.byteStep k w)
  else none

/-- The enabled transitions of the block over the memory `m`, those of the oldest buffer-update first (R38). -/
def Block.enabled (choice : Nat) (m : Memory) (b : Block) : List Transition :=
  b.works.zipIdx.filterMap (fun p => p.1.enabled choice m p.2)

/-- The enabled transitions of the buffer-updates in progress, oldest first. -/
def State.enabledWorks (s : State) : List Transition := s.toBlock.enabled (Config.heldByte s.turn) s.mem

/-- Every enabled transition, the callers' first. -/
def State.enabled (s : State) : List Transition := s.enabledInput ++ s.enabledWorks

/-- The number that says which enabled transition moves: the next one of `schedule`, else the free choice (R38 (d)). -/
def State.choice (s : State) : Nat := s.schedule.headD (Config.serve s.turn)

/-- The transition that moves; `none` when none is enabled. -/
def State.nextTransition (s : State) : Option Transition :=
  match s.enabled with
  | [] => none
  | t :: ts => some (choose s.choice t ts)

/-! ## What a transition does -/

/-- The model's own count of moves: one more, and one choice of the schedule used up. -/
def State.moved (s : State) : State := { s with schedule := s.schedule.tail, turn := s.turn + 1 }

/-- A move that takes the first thing of `inputs`. -/
def State.taken (s : State) : State := { s.moved with inputs := s.inputs.tail }

/-- `step` of R115: one byte consumed by the working state `w` at place `k`. -/
def Block.byteStep (blk : Block) (k : Nat) (w : Work) (b : Byte) : Block :=
  { works := blk.works.set k { w with acc := byteUpdate w.variant w.acc b, idx := w.idx + 1 } }

/-- `step` of R115 in the run: nothing but the block changes. -/
def State.byteStep (s : State) (k : Nat) (w : Work) (b : Byte) : State := { s with toBlock := s.toBlock.byteStep k w b }

/-- `deliver` of R115: the working state at place `k` is discarded. -/
def Block.deliver (blk : Block) (k : Nat) : Block := { works := blk.works.eraseIdx k }

/-- `deliver` of R115 in the run: the accumulator is the response. -/
def State.deliver (s : State) (k : Nat) (w : Work) : State :=
  { s with
    toBlock := s.toBlock.deliver k
    responses := s.responses ++ [{ ticket := w.ticket, crcOut := w.acc }] }

/-- The working state of a buffer-update over whose buffer the byte `old` at address `a` is overwritten or withdrawn
(R39): it keeps that byte, since it may be the one consumed. -/
def Work.overwritten (a : Nat) (old : Option Byte) (w : Work) : Work :=
  match old with
  | none => w
  | some b => if w.addr ≤ a ∧ a < w.addr + w.len then { w with held := (a, b) :: w.held } else w

/-- Every buffer-update in progress over whose buffer a caller writes keeps the byte it wrote over (R39, log entry 7). -/
def Block.overwritten (b : Block) (a : Nat) (old : Option Byte) : Block := { works := b.works.map (Work.overwritten a old) }

/-- A caller fills or withdraws a byte (R30, R37), with addresses of `aw` bits (R31). -/
def State.callerWrite (aw : Nat) (s : State) (a : Nat) (v : Option Byte) : Result :=
  if a < 2 ^ aw then
    .next { s with
      mem := s.mem.set a v
      toBlock := s.toBlock.overwritten a (s.mem.read a) }
  else .fault .noSuchAddress

/-- Reset: every working state is discarded and gets no response (R151); the block has nothing else to reset (R150).
DESIGN CHOICE, log entry 17, safe: what the outside world holds stays. -/
def State.discardWorks (s : State) : State := { s with toBlock := Block.reset }

/-- No transition is enabled. With no buffer-update in progress the block waits for a request (DESIGN CHOICE, log entry
12, safe); otherwise every one is at an unreadable byte and there is no step (R35; DEDUCED, log entry 11, safe). -/
def State.waitOrStuck (s : State) : Result := if s.works.isEmpty then .next s else .fault .stuck

/-- The refusal of a request that decodes to no operation (R55, R133). `step` answers it, and `Run.next` goes on past it:
DEDUCED, log entry 10, safe. -/
def refusalOf : DecodeError → Refusal
  | .reservedCmd => .reservedCmd

/-- `s` with the packed request of `nbits` bits `w` presented before everything else, and taken up by the next step
whatever else is in progress (choice 0 is the callers' transition). DESIGN CHOICE, log entry 9, safe. -/
def State.presentWord (s : State) (nbits w : Nat) : State :=
  { s with inputs := .request [] (requestOfTableWord nbits w) :: s.inputs, schedule := 0 :: s.schedule }

end Sys2Proof.Machine
end

