-- ==== Sys2Proof/Machine/Step.lean ====
section
/-! DEFINITION. One step of the machine: the enabled transition that moves, and what it does. -/

namespace Sys2Proof.Machine

/-- A request presented: decoded first (R134), refused by name if it is reserved, else given its meaning. -/
def serve (r : Request Config.addrWidth) (s : State) : Result :=
  match decode r with
  | .ok i => exec i s
  | .error e => .refused (refusalOf e)

/-- One step. -/
def step (s : State) : Host.Outcome State Fault Refusal :=
  match s.nextTransition with
  | none => s.waitOrStuck
  | some (.present r) => serve r s.taken
  | some (.callerWrite a v) => s.taken.callerWrite Config.addrWidth a v
  | some .reset => .next s.taken.discardWorks
  | some (.byteStep k w b) => .next (s.moved.byteStep k w b)
  | some (.deliver k w) => .next (s.moved.deliver k w)

/-- `s` with the request whose bits are `w` placed where the next step takes it up (log entry 9). -/
def State.withFetchWord (s : State) (nbits w : Nat) : State := s.presentWord nbits w

end Sys2Proof.Machine
end

