-- ==== Sys2Proof/Machine/Run.lean ====
section
/-! DEFINITION. A run (R157): a refused request marks it for good and it goes on past it (DEDUCED, log entry 10), and it
is finished when every request that was not refused was answered and nothing is in progress (for callers' writes and
resets in the list, log entry 20). `step` itself answers the refusal, so
that no claim about a next state can be drawn from it (R133; log entry 10). -/

namespace Sys2Proof.Machine

/-- A run so far: where it stands, the refusals that mark it, and the fault that stopped it, if one did. -/
structure Run where
  state   : State
  refused : List Refusal
  stopped : Option Fault
  deriving DecidableEq, Repr

/-- The run that starts in `s`. -/
def Run.start (s : State) : Run := { state := s, refused := [], stopped := none }

/-- One step more. A refused request is taken from `inputs`, gets no response and changes nothing else (R55, R133), and
its refusal marks the run. That the run goes on past it is DEDUCED, log entry 10. It uses up no ticket: the next
request accepted gets the number it would have had, and a link with that number is a link to that next request (DESIGN
CHOICE, log entry 5). -/
def Run.next (r : Run) : Run :=
  match r.stopped with
  | some _ => r
  | none =>
    match step r.state with
    | .next s => { r with state := s }
    | .fault f => { r with stopped := some f }
    | .refused x => { r with state := r.state.taken, refused := r.refused ++ [x] }

/-- `n` steps more. -/
def Run.after : Nat → Run → Run
  | 0, r => r
  | n + 1, r => Run.after n r.next

/-- The run contains a refused request (R157). -/
def Run.marked (r : Run) : Bool := !r.refused.isEmpty

/-- The request with this ticket has its response. -/
def State.answered (s : State) (ticket : Nat) : Bool := s.responses.any (fun r => r.ticket == ticket)

/-- Nothing waits to be presented, every request accepted has its response, and no working state remains (R157). A
request that a reset discarded has no response, so it leaves its run unfinished. The run of R157 is a list of requests
only; that a caller's write or a reset still waiting in `inputs` leaves the run unfinished, too, is the model's choice
(DESIGN CHOICE, log entry 20). -/
def State.finished (s : State) : Bool :=
  s.inputs.isEmpty && s.works.isEmpty && (List.range s.accepted).all s.answered

/-- The run is finished (R157), whether or not it is marked. -/
def Run.finished (r : Run) : Bool := r.state.finished

end Sys2Proof.Machine
end

