-- ==== Sys2Proof/Safety.lean ====
section
/-! DEFINITION. The terms that claims use: the invariant of the machine, the result that a
buffer-update owes, and runs of one operation alone. -/

namespace Sys2Proof.Machine

/-! ## The invariant -/

/-- The bounds of a working state: `addr` and `len` fit fields of `aw` bits (R50, R53), the buffer lies in the address
space (R34), and `idx <= len < 2^aw` (R15, R18). -/
def Work.inBounds (aw : Nat) (w : Work) : Prop :=
  w.idx ≤ w.len ∧ w.len < 2 ^ aw ∧ w.addr < 2 ^ aw ∧ w.addr + w.len ≤ 2 ^ aw

/-- The tickets of the requests in progress and of those answered. -/
def State.tickets (s : State) : List Nat := s.works.map Work.ticket ++ s.responses.map Response.ticket

/-- What holds at reset and after every step. -/
structure State.Inv (s : State) : Prop where
  /-- the memory is in its canonical form -/
  memCanonical : s.mem.wf
  /-- every readable address exists (R31) -/
  memInSpace : ∀ c ∈ s.mem, c.1 < 2 ^ Config.addrWidth
  /-- every working state is within its fields, its buffer and the space (R15, R18, R34, R53) -/
  worksInBounds : ∀ w ∈ s.works, w.inBounds Config.addrWidth
  /-- no ticket is used before its request is accepted or answered -/
  ticketsGiven : ∀ t ∈ s.tickets, t < s.accepted
  /-- a request is in progress once or answered once, not both (R50: one response) -/
  ticketsOnce : s.tickets.Nodup

/-! ## What a buffer-update owes -/

/-- The bytes that the working state `w` has still to consume, if all are readable. -/
def Work.rest (m : Memory) (w : Work) : Option (List Byte) := m.buffer (w.addr + w.idx) (w.len - w.idx)

/-- The response that the working state `w` leads to over the memory `m` (R110, R111). -/
def Work.result (m : Memory) (w : Work) : Option Word := (w.rest m).map (bufferUpdate w.variant w.acc)

/-- Address `a` is in the buffer of `w`. -/
def Work.covers (w : Work) (a : Nat) : Prop := w.addr ≤ a ∧ a < w.addr + w.len

/-- The request `ticket` was answered with `v`, or is in progress over a buffer not disturbed so far and leads to `v`. -/
def State.Owes (s : State) (ticket : Nat) (v : Word) : Prop :=
  (∃ w ∈ s.works, w.ticket = ticket ∧ w.held = [] ∧ w.idx ≤ w.len ∧ w.result s.mem = some v) ∨
    { ticket := ticket, crcOut := v } ∈ s.responses

/-- The transition `t` neither resets the block nor writes into the buffer of the request `ticket` (R39, R151). -/
def State.Undisturbed (s : State) (ticket : Nat) (t : Transition) : Prop :=
  t ≠ .reset ∧ ∀ a v, t = .callerWrite a v → ∀ w ∈ s.works, w.ticket = ticket → ¬ w.covers a

/-- The transitions that the buffer-updates in progress still need: a byte step for each byte left and a delivery
(R115). -/
def State.workload (s : State) : Nat := (s.works.map (fun w => w.len - w.idx + 1)).sum

/-- Every request accepted so far is in progress or answered: none was lost to a reset (R151). -/
def State.NoneLost (s : State) : Prop := ∀ ticket < s.accepted, ticket ∈ s.tickets

/-- The buffer that an instruction names is readable; an instruction without a buffer needs nothing (R35). -/
def bufferReadable (m : Memory) : Instr → Prop
  | .crc16CcittLookupTable _ => True
  | .crc16CcittByteUpdate _ _ => True
  | .crc16CcittBufferUpdate _ addr len => (m.buffer addr.toNat len.toNat).isSome = true
  | .crc16CcittFalseLookupTable _ => True
  | .crc16CcittFalseByteUpdate _ _ => True
  | .crc16CcittFalseBufferUpdate _ addr len => (m.buffer addr.toNat len.toNat).isSome = true

/-- A list of requests that can be served to its end when `n` tickets are given: each request uses responses of tickets
given by then only, earlier requests of the list among them, and names a readable buffer if it is in range. A request that
is answered or accepted gives the next ticket, and a refused one gives none (log entry 5). -/
def Servable (m : Memory) : List Event → Nat → Prop
  | [], _ => True
  | .request links r :: rest, n =>
    (∀ l ∈ links, l.ticket < n) ∧ ∀ rs r', fill Request.put rs links r = some r' →
      (∀ i, decode r' = .ok i → i.wf = true → bufferReadable m i ∧ Servable m rest (n + 1)) ∧
      ((∀ i, decode r' = .ok i → i.wf = false) → Servable m rest n)
  | .callerWrite _ _ _ :: _, _ => False
  | .reset :: _, _ => False

/-- The memory `m` after what callers did to it among the events `es`, the responses `rs` being those their links use. -/
def Memory.afterEvents (rs : List Response) : List Event → Memory → Memory
  | [], m => m
  | .request _ _ :: es, m => m.afterEvents rs es
  | .callerWrite links a v :: es, m =>
    match fill putWrite rs links (a, v) with
    | some w => Memory.afterEvents rs es (m.set w.1 w.2)
    | none => m.afterEvents rs es
  | .reset :: es, m => m.afterEvents rs es

/-! ## Runs -/

/-- Nothing is in progress and nothing is presented. -/
def State.quiet (s : State) : Prop := s.inputs = [] ∧ s.works = []

/-- The byte-update of a variant as an instruction. -/
def byteUpdateInstr : Variant → Word → Byte → Instr
  | .ccitt => .crc16CcittByteUpdate
  | .ccittFalse => .crc16CcittFalseByteUpdate

/-- The buffer-update of a variant as an instruction. -/
def bufferUpdateInstr : Variant → Word → BitVec Config.addrWidth → BitVec Config.addrWidth → Instr
  | .ccitt => .crc16CcittBufferUpdate
  | .ccittFalse => .crc16CcittFalseBufferUpdate

/-- A buffer-update taken up in `s`, and then the `len` byte steps and the delivery that it takes when nothing else is
in progress (R115). -/
def bufferUpdateAlone (v : Variant) (seed : Word) (addr len : BitVec Config.addrWidth) (s : State) : Result :=
  match exec (bufferUpdateInstr v seed addr len) s with
  | .next t => Host.Core.run Sys2Proof.core (len.toNat + 1) t
  | .fault f => .fault f
  | .refused r => .refused r

/-- The last response delivered. -/
def State.lastCrc (s : State) : Option Word := s.responses.getLast?.map Response.crcOut

/-- Byte-update requests over the bytes `bs`, each taking the response of the one before as its `crc_in` (R113); the
last accumulator and the state they lead to. -/
def threadBytes (v : Variant) : Word → List Byte → State → Option (Word × State)
  | crc, [], s => some (crc, s)
  | crc, b :: bs, s =>
    match exec (byteUpdateInstr v crc b) s with
    | .next t =>
      match t.lastCrc with
      | some crc' => threadBytes v crc' bs t
      | none => none
    | _ => none

end Sys2Proof.Machine
end

