-- ==== Sys2Proof/Certificates/Slice0/Obligations.lean ====
section
/-! DEFINITION. The statements for the provers: what the rules of spec/ say the machine does. -/

open Sys2Proof Sys2Proof.Machine

/-! ## Encoding -/

/-- R54: the whole opcode map, for every request and every operand value. -/
def Obligations.OpcodeMapDecodes : Prop :=
  ∀ r : Request Config.addrWidth, decode r =
    if r.cmd = 0b000 then .ok (.crc16CcittLookupTable r.byteIn)
    else if r.cmd = 0b001 then .ok (.crc16CcittByteUpdate r.crcIn r.byteIn)
    else if r.cmd = 0b010 then .ok (.crc16CcittBufferUpdate r.crcIn r.addr r.len)
    else if r.cmd = 0b100 then .ok (.crc16CcittFalseLookupTable r.byteIn)
    else if r.cmd = 0b101 then .ok (.crc16CcittFalseByteUpdate r.crcIn r.byteIn)
    else if r.cmd = 0b110 then .ok (.crc16CcittFalseBufferUpdate r.crcIn r.addr r.len)
    else .error .reservedCmd

/-- R55: a reserved `cmd` is refused whatever the operands and the state, with no response and no change; so is the
step that takes such a request up. -/
def Obligations.ReservedCommandIsRefused : Prop :=
  ∀ (r : Request Config.addrWidth) (s : State), (r.cmd = 0b011 ∨ r.cmd = 0b111) →
    serve r s = .refused .reservedCmd ∧
      (s.nextTransition = some (.present r) → step s = .refused .reservedCmd)

/-- A request of R50 laid out as bits and read back is the same request, every field of it, and every request has the
same number of bits (R57). The layout is the model's choice (log entry 8). -/
def Obligations.PackedRequestKeepsEveryField : Prop :=
  ∀ (aw : Nat) (r : Request aw), Request.ofBits aw r.toBits = r ∧ r.toBits.length = 27 + 2 * aw

/-- Decoding the packed request that encodes an instruction gives the instruction back, for all six instructions and
every value that their fields hold, at the open address width. The layout is the model's choice (log entry 8). -/
def Obligations.DecodeOfEncodeIsIdentity : Prop :=
  ∀ i : Instr, decodeBits (encodeBits i) = .ok i

/-- R52, its ignored operands: two requests of one `cmd` that agree on the operands their format reads do the same in
every state. `op` is `cmd[1:0]` (R51). -/
def Obligations.IgnoredFieldsHaveNoEffect : Prop :=
  ∀ (r r' : Request Config.addrWidth) (s : State), r'.cmd = r.cmd →
    (r.cmd.extractLsb' 0 2 = 0b00 ∨ r.cmd.extractLsb' 0 2 = 0b01 → r'.byteIn = r.byteIn) →
    (r.cmd.extractLsb' 0 2 = 0b01 ∨ r.cmd.extractLsb' 0 2 = 0b10 → r'.crcIn = r.crcIn) →
    (r.cmd.extractLsb' 0 2 = 0b10 → r'.addr = r.addr ∧ r'.len = r.len) →
    serve r' s = serve r s

/-- A few words of the opcode table, operand bits 0, read by the decoder (R54; the layout is log entry 8). -/
def Obligations.TableWordsDecode : Prop :=
  decodeTableWord 8 0b000 = some (.crc16CcittLookupTable 0x00) ∧
  decodeTableWord 8 0b001 = some (.crc16CcittByteUpdate 0x0000 0x00) ∧
  decodeTableWord 8 0b010 = some (.crc16CcittBufferUpdate 0x0000 0 0) ∧
  decodeTableWord 8 0b011 = none ∧
  decodeTableWord 8 0b100 = some (.crc16CcittFalseLookupTable 0x00) ∧
  decodeTableWord 8 0b101 = some (.crc16CcittFalseByteUpdate 0x0000 0x00) ∧
  decodeTableWord 8 0b110 = some (.crc16CcittFalseBufferUpdate 0x0000 0 0) ∧
  decodeTableWord 8 0b111 = none

/-! ## Requests and steps -/

/-- A step that takes up a request which decodes to `i` is `exec i`, after the request has left `inputs` and the
model's own counters have moved on; and a request at the front of `inputs` is taken up when nothing is in progress, or
when the schedule's next choice is 0 (the schedule is the model's, log entry 6). -/
def Obligations.StepRunsTheDecodedRequest : Prop :=
  (∀ (s : State) (r : Request Config.addrWidth) (i : Instr), s.nextTransition = some (.present r) → decode r = .ok i →
    step s = exec i { s with inputs := s.inputs.tail, schedule := s.schedule.tail, turn := s.turn + 1 }) ∧
  (∀ (s : State) (r : Request Config.addrWidth) (rest : List Event) (i : Instr), s.inputs = .request [] r :: rest →
    (s.works = [] ∨ s.schedule.head? = some 0) → decode r = .ok i →
    step s = exec i { s with inputs := rest, schedule := s.schedule.tail, turn := s.turn + 1 })

/-- In every state, whatever is in progress, the word placed by `withFetchWord` is what the next step runs. -/
def Obligations.PlacedWordRunsNext : Prop :=
  ∀ (s : State) (nbits w : Nat) (i : Instr), decodeTableWord nbits w = some i →
    step (s.withFetchWord nbits w) = exec i { s with turn := s.turn + 1 }

/-- R12, R58, R154 ("the second cannot be presented before the first's response exists"): what a caller makes of an
earlier response, a request or a write of its memory, does not move while a response it uses is missing. Once the
responses exist, the request with them in its operands, in `crc_in`, in `byte_in` as the low or high byte, in `addr` or
in `len`, is enabled, and it is the only request that can be presented; likewise the write, with a response as its
address or a byte of it as the byte written. The order of `inputs`, the tickets and the fitting of a response to a field
are the model's (log entries 4, 5, 19). -/
def Obligations.ChainedRequestWaitsForItsResponse : Prop :=
  (∀ (s : State) (links : List Link) (r : Request Config.addrWidth) (rest : List Event),
    s.inputs = .request links r :: rest → (∃ l ∈ links, ∀ x ∈ s.responses, x.ticket ≠ l.ticket) →
    ∀ r', s.nextTransition ≠ some (.present r')) ∧
  (∀ (s : State) (links : List Link) (a : Nat) (v : Option Byte) (rest : List Event),
    s.inputs = .callerWrite links a v :: rest → (∃ l ∈ links, ∀ x ∈ s.responses, x.ticket ≠ l.ticket) →
    ∀ a' v', s.nextTransition ≠ some (.callerWrite a' v')) ∧
  (∀ (s : State) (l : Link) (links : List Link) (v : Word) (r : Request Config.addrWidth) (rest : List Event),
    (∃ x ∈ s.responses, x.ticket = l.ticket) → (∀ x ∈ s.responses, x.ticket = l.ticket → x.crcOut = v) →
    ({ s with inputs := .request (l :: links) r :: rest } : State).enabled =
      ({ s with inputs := .request links (match l.slot with
        | .wait => r
        | .crcIn => { r with crcIn := v }
        | .byteIn .low => { r with byteIn := v.extractLsb' 0 8 }
        | .byteIn .high => { r with byteIn := v.extractLsb' 8 8 }
        | .addr => { r with addr := v.setWidth Config.addrWidth }
        | .len => { r with len := v.setWidth Config.addrWidth }
        | .written _ => r) :: rest } : State).enabled) ∧
  (∀ (s : State) (l : Link) (links : List Link) (v : Word) (a : Nat) (b : Option Byte) (rest : List Event),
    (∃ x ∈ s.responses, x.ticket = l.ticket) → (∀ x ∈ s.responses, x.ticket = l.ticket → x.crcOut = v) →
    ({ s with inputs := .callerWrite (l :: links) a b :: rest } : State).enabled =
      ({ s with inputs := (match l.slot with
        | .wait => .callerWrite links a b
        | .crcIn => .callerWrite links a b
        | .byteIn _ => .callerWrite links a b
        | .addr => .callerWrite links v.toNat b
        | .len => .callerWrite links a b
        | .written .low => .callerWrite links a (some (v.extractLsb' 0 8))
        | .written .high => .callerWrite links a (some (v.extractLsb' 8 8))) :: rest } : State).enabled) ∧
  (∀ (s : State) (r : Request Config.addrWidth) (rest : List Event), s.inputs = .request [] r :: rest →
    .present r ∈ s.enabled ∧ ∀ r', s.nextTransition = some (.present r') → r' = r) ∧
  (∀ (s : State) (a : Nat) (b : Option Byte) (rest : List Event), s.inputs = .callerWrite [] a b :: rest →
    .callerWrite a b ∈ s.enabled ∧ ∀ a' b', s.nextTransition = some (.callerWrite a' b') → a' = a ∧ b' = b)

/-- Every enabled transition can be the one that moves: for each there is a choice by which it does, so that what the
other statements say of every step they say of every interleaving (20_memory.md section 6; the field `schedule` is the
model's, log entry 6). And the one that moves is always an enabled one. -/
def Obligations.AnyEnabledTransitionCanMove : Prop :=
  ∀ (s : State) (t : Transition),
    t ∈ s.enabled ↔ ∃ c, ({ s with schedule := c :: s.schedule } : State).nextTransition = some t

/-- The block's own state takes no parameter into itself (10_state.md section 7): whatever moves, what the block's state
becomes is fixed by that state and the transition alone, beside the next ticket (log entry 5) and, for a caller's write,
the byte written over (log entry 7). No other byte of memory, nothing else that waits to be presented, no choice and no
earlier response has a part in it. -/
def Obligations.BlockChangesByItsOwnState : Prop :=
  ∀ (s s' t : State) (tr : Transition), s'.toBlock = s.toBlock → s'.accepted = s.accepted →
    s.nextTransition = some tr → s'.nextTransition = some tr →
    (∀ a v, tr = .callerWrite a v → s'.mem.read a = s.mem.read a) → step s = .next t →
    ∃ t', step s' = .next t' ∧ t'.toBlock = t.toBlock

/-- What an instruction leaves unchanged, all six, whenever it answers a next state: the parameters of the run (R22), that
is what callers will present, the choices and every byte of the memory, and everything in progress or delivered before;
formats T and B add one response and nothing in progress, format S one buffer-update in progress and no response
(R4, R36). -/
def Obligations.InstructionFrame : Prop :=
  ∀ (i : Instr) (s t : State), exec i s = .next t →
    t.toParameters = s.toParameters ∧ t.turn = s.turn ∧ t.accepted = s.accepted + 1 ∧
    (∀ a, t.mem.read a = s.mem.read a) ∧
    (∀ seed addr len, (i = .crc16CcittBufferUpdate seed addr len ∨ i = .crc16CcittFalseBufferUpdate seed addr len) →
      ∃ w, t.works = s.works ++ [w] ∧ t.responses = s.responses) ∧
    ((∀ seed addr len, i ≠ .crc16CcittBufferUpdate seed addr len ∧ i ≠ .crc16CcittFalseBufferUpdate seed addr len) →
      ∃ r, t.works = s.works ∧ t.responses = s.responses ++ [r])

/-- R4, R13: what an instruction answers or starts is the same in every state: it depends on no earlier operation, no
other request and no byte of memory. -/
def Obligations.EffectDependsOnOperandsOnly : Prop :=
  ∀ i : Instr,
    (∃ v : Word, ∀ s : State, exec i s = .next { s with
      responses := s.responses ++ [{ ticket := s.accepted, crcOut := v }], accepted := s.accepted + 1 }) ∨
    (∃ (v : Variant) (seed : Word) (addr len : BitVec Config.addrWidth), ∀ s : State, exec i s = .next { s with
      works := s.works ++ [{
        variant := v, acc := seed, idx := 0, len := len.toNat, addr := addr.toNat, ticket := s.accepted, held := [] }]
      accepted := s.accepted + 1 }) ∨
    (∀ s : State, exec i s = .refused .range)

/-! ## The tables -/

/-- The entries printed for the CCITT table are those its division procedure leaves, least significant bit first with
0x8408, and they have the printed check values (40_table_lookup.md sections 1 and 2, where the spec marks them as its
own derivation: "The 256 entries of `T_ccitt`, computed from rule R70"). -/
def Obligations.CcittTableIsGenerated : Prop :=
  (∀ i : Byte, tCcitt i =
    (List.range 8).foldl (fun (r : Word) _ => if r.getLsbD 0 then (r >>> 1) ^^^ 0x8408 else r >>> 1) (i.setWidth 16)) ∧
  ((List.range 256).map (fun n => tCcitt (BitVec.ofNat 8 n))).foldl (· ^^^ ·) 0 = 0x0000 ∧
  ((List.range 256).map (fun n => (tCcitt (BitVec.ofNat 8 n)).toNat)).sum = 8388480

/-- The same of the CCITT-FALSE table, most significant bit first with 0x1021 (40_table_lookup.md sections 1 and 2:
"The 256 entries of `T_false`, computed from rule R71"). -/
def Obligations.FalseTableIsGenerated : Prop :=
  (∀ i : Byte, tFalse i =
    (List.range 8).foldl (fun (r : Word) _ => if r.getLsbD 15 then (r <<< 1) ^^^ 0x1021 else r <<< 1)
      (i.setWidth 16 <<< 8)) ∧
  ((List.range 256).map (fun n => tFalse (BitVec.ofNat 8 n))).foldl (· ^^^ ·) 0 = 0x0000 ∧
  ((List.range 256).map (fun n => (tFalse (BitVec.ofNat 8 n)).toNat)).sum = 8388480

/-- Both tables are linear over exclusive-or (40_table_lookup.md section 4, law (b), which the spec marks as derived). -/
def Obligations.TablesAreLinear : Prop :=
  ∀ a b : Byte, tCcitt (a ^^^ b) = tCcitt a ^^^ tCcitt b ∧ tFalse (a ^^^ b) = tFalse a ^^^ tFalse b

/-- Both tables are injective, and each is the bit reversal of the other (40_table_lookup.md section 4, laws (c) and
(d), which the spec marks as derived). -/
def Obligations.TablesAreInjectiveReversals : Prop :=
  Function.Injective tCcitt ∧ Function.Injective tFalse ∧ ∀ i : Byte, tFalse i = (tCcitt i.reverse).reverse

/-- R74: `crc16_ccitt_lookup_table`. -/
def Obligations.CcittLookupAnswersTheEntry : Prop :=
  (∀ (index : Byte) (crc : Word) (addr len : BitVec Config.addrWidth),
    decode { cmd := 0b000, crcIn := crc, byteIn := index, addr, len } = .ok (.crc16CcittLookupTable index)) ∧
  (∀ (index : Byte) (s : State), exec (.crc16CcittLookupTable index) s = .next { s with
    responses := s.responses ++ [{ ticket := s.accepted, crcOut := tCcitt index }], accepted := s.accepted + 1 }) ∧
  tCcitt 0x00 = 0x0000 ∧ tCcitt 0x31 = 0x200A

/-- R75: `crc16_ccitt_false_lookup_table`. -/
def Obligations.FalseLookupAnswersTheEntry : Prop :=
  (∀ (index : Byte) (crc : Word) (addr len : BitVec Config.addrWidth),
    decode { cmd := 0b100, crcIn := crc, byteIn := index, addr, len } = .ok (.crc16CcittFalseLookupTable index)) ∧
  (∀ (index : Byte) (s : State), exec (.crc16CcittFalseLookupTable index) s = .next { s with
    responses := s.responses ++ [{ ticket := s.accepted, crcOut := tFalse index }], accepted := s.accepted + 1 }) ∧
  tFalse 0x00 = 0x0000 ∧ tFalse 0x31 = 0x2672

/-! ## The byte-updates -/

/-- R91: `crc16_ccitt_byte_update`, its encoding, its response in every state, its corner cases and its example. -/
def Obligations.CcittByteUpdateAnswers : Prop :=
  (∀ (crc : Word) (byte : Byte) (addr len : BitVec Config.addrWidth),
    decode { cmd := 0b001, crcIn := crc, byteIn := byte, addr, len } = .ok (.crc16CcittByteUpdate crc byte)) ∧
  (∀ (crc : Word) (byte : Byte) (s : State), exec (.crc16CcittByteUpdate crc byte) s =
    .next { s with
      responses := s.responses ++ [Response.mk s.accepted
        ((crc >>> 8) ^^^ tCcitt (((crc ^^^ byte.setWidth 16) &&& 0x00FF).setWidth 8))]
      accepted := s.accepted + 1 }) ∧
  (∀ (crc : Word) (byte : Byte), ((crc ^^^ byte.setWidth 16) &&& 0x00FF).setWidth 8 = crc.extractLsb' 0 8 ^^^ byte) ∧
  (∀ byte : Byte, byteUpdateCcitt 0x0000 byte = tCcitt byte) ∧
  (∀ crc : Word, byteUpdateCcitt crc (crc.extractLsb' 0 8) = crc >>> 8) ∧
  (∀ (crc : Word) (byte : Byte),
    (byteUpdateCcitt crc byte).extractLsb' 8 8 = (tCcitt (crc.extractLsb' 0 8 ^^^ byte)).extractLsb' 8 8) ∧
  byteUpdateCcitt 0xFFFF 0xFF = 0x00FF ∧ byteUpdateCcitt 0x0000 0x00 = 0x0000 ∧
  byteUpdateCcitt 0x1234 0x56 = 0x4006

/-- `crc16_ccitt_false_byte_update`, its encoding, its response in every state, its corner cases and its examples
(41_byte_update.md section 2). That the shifted form keeps 16 bits is the spec's inference ("The source does not write
this truncation out"). -/
def Obligations.FalseByteUpdateAnswers : Prop :=
  (∀ (crc : Word) (byte : Byte) (addr len : BitVec Config.addrWidth),
    decode { cmd := 0b101, crcIn := crc, byteIn := byte, addr, len } = .ok (.crc16CcittFalseByteUpdate crc byte)) ∧
  (∀ (crc : Word) (byte : Byte) (s : State), exec (.crc16CcittFalseByteUpdate crc byte) s =
    .next { s with
      responses := s.responses ++ [Response.mk s.accepted
        (BitVec.ofNat 16 (crc.toNat * 256 % 65536) ^^^ tFalse (crc.extractLsb' 8 8 ^^^ byte))]
      accepted := s.accepted + 1 }) ∧
  (∀ byte : Byte, byteUpdateFalse 0x0000 byte = tFalse byte) ∧
  (∀ crc : Word, byteUpdateFalse crc (crc.extractLsb' 8 8) = crc <<< 8) ∧
  byteUpdateFalse 0xFFFF 0xFF = 0xFF00 ∧ byteUpdateFalse 0xABCD 0xEF = 0xC540 ∧
  byteUpdateFalse 0xFFFF 0x31 = 0xC782

/-- The self-consistency of the tables, and that seed 0x0000 is the one seed for which it holds, in both variants
(40_table_lookup.md section 4; that the seed is unique is the spec's inference: "it is the only 16-bit seed"). -/
def Obligations.ZeroIsTheOnlyReferenceSeed : Prop :=
  (∀ seed : Word, (∀ i : Byte, byteUpdateCcitt seed i = tCcitt i) ↔ seed = 0x0000) ∧
  (∀ seed : Word, (∀ i : Byte, byteUpdateFalse seed i = tFalse i) ↔ seed = 0x0000)

/-- The byte-updates as bit-serial division, without the tables (41_byte_update.md section 4, "Bit-serial
equivalents", which the spec marks as derived). -/
def Obligations.ByteUpdatesAreBitSerial : Prop :=
  ∀ (crc : Word) (byte : Byte),
    byteUpdateCcitt crc byte =
      (List.range 8).foldl (fun (r : Word) _ => if r.getLsbD 0 then (r >>> 1) ^^^ 0x8408 else r >>> 1)
        (crc ^^^ byte.setWidth 16) ∧
    byteUpdateFalse crc byte =
      (List.range 8).foldl (fun (r : Word) _ => if r.getLsbD 15 then (r <<< 1) ^^^ 0x1021 else r <<< 1)
        (crc ^^^ (byte.setWidth 16 <<< 8))

/-- Both byte-updates are linear over exclusive-or in accumulator and byte together (41_byte_update.md section 4,
"Linearity", which the spec marks as derived). -/
def Obligations.ByteUpdatesAreLinear : Prop :=
  ∀ (v : Variant) (c1 c2 : Word) (b1 b2 : Byte),
    byteUpdate v (c1 ^^^ c2) (b1 ^^^ b2) = byteUpdate v c1 b1 ^^^ byteUpdate v c2 b2

/-- For a fixed byte both byte-updates are bijections of the accumulators (41_byte_update.md section 4, which the spec
marks as derived: "the map from accumulator to next accumulator is a bijection"). -/
def Obligations.ByteUpdatesAreBijective : Prop :=
  ∀ (v : Variant) (b : Byte), Function.Bijective (fun c => byteUpdate v c b)

/-! ## The buffer-updates -/

/-- R34: a buffer-update, of either variant and in every state, is accepted exactly when `addr + len <= 2^AW` in natural
numbers, and refused otherwise, never wrapped. `addr` and `len` range over all that their fields hold. The same holds of
the acceptance at every width, so also at the 16 bits of the spec's vectors. -/
def Obligations.BufferUpdateNeedsItsRange : Prop :=
  (∀ (v : Variant) (seed : Word) (addr len : BitVec Config.addrWidth) (s : State),
    (addr.toNat + len.toNat ≤ 2 ^ Config.addrWidth → ∃ t, exec (bufferUpdateInstr v seed addr len) s = .next t) ∧
    (2 ^ Config.addrWidth < addr.toNat + len.toNat → exec (bufferUpdateInstr v seed addr len) s = .refused .range)) ∧
  (∀ (aw : Nat) (v : Variant) (seed : Word) (addr len : BitVec aw) (s : State),
    (addr.toNat + len.toNat ≤ 2 ^ aw → ∃ t, s.accept v seed addr len = .next t) ∧
    (2 ^ aw < addr.toNat + len.toNat → s.accept v seed addr len = .refused .range))

/-- R56: an instruction answers a next state, in every state, exactly when it is well-formed: every operand value is
legal, except that a buffer-update must satisfy the range condition; and a request is well-formed exactly when it decodes
to a well-formed instruction. -/
def Obligations.WellFormedIsWhatCompletes : Prop :=
  (∀ (i : Instr) (s : State), i.wf = true ↔ ∃ t, exec i s = .next t) ∧
  (∀ i : Instr, (∀ seed addr len, (i = .crc16CcittBufferUpdate seed addr len ∨
      i = .crc16CcittFalseBufferUpdate seed addr len) → addr.toNat + len.toNat ≤ 2 ^ Config.addrWidth) ↔ i.wf = true) ∧
  (∀ r : Request Config.addrWidth, r.wf = true ↔ ∃ i, decode r = .ok i ∧ i.wf = true)

/-- R110: `crc16_ccitt_buffer_update`. In range it is accepted in every state; with nothing else in progress, and its
buffer readable as `bs`, the machine then delivers, after exactly `len` byte steps and the delivery, the fold of the
byte-updates over `bs`, and changes nothing else; over an unreadable byte it is stuck; out of range it is refused. -/
def Obligations.CcittBufferUpdateDeliversTheFold : Prop :=
  (∀ (seed : Word) (byte : Byte) (addr len : BitVec Config.addrWidth),
    decode { cmd := 0b010, crcIn := seed, byteIn := byte, addr, len } = .ok (.crc16CcittBufferUpdate seed addr len)) ∧
  (∀ (seed : Word) (addr len : BitVec Config.addrWidth) (s : State),
    2 ^ Config.addrWidth < addr.toNat + len.toNat →
    exec (.crc16CcittBufferUpdate seed addr len) s = .refused .range) ∧
  (∀ (seed : Word) (addr len : BitVec Config.addrWidth) (s : State),
    addr.toNat + len.toNat ≤ 2 ^ Config.addrWidth →
    exec (.crc16CcittBufferUpdate seed addr len) s = .next { s with
      works := s.works ++ [{
        variant := .ccitt, acc := seed, idx := 0, len := len.toNat, addr := addr.toNat, ticket := s.accepted, held := [] }]
      accepted := s.accepted + 1 }) ∧
  (∀ (seed : Word) (addr len : BitVec Config.addrWidth) (s : State),
    addr.toNat + len.toNat ≤ 2 ^ Config.addrWidth → s.quiet →
    (∀ bs, s.mem.buffer addr.toNat len.toNat = some bs →
      ∃ t, exec (.crc16CcittBufferUpdate seed addr len) s = .next t ∧
        Host.Core.run core (len.toNat + 1) t = .next { s with
          responses := s.responses ++ [{ ticket := s.accepted, crcOut := bs.foldl byteUpdateCcitt seed }]
          accepted := s.accepted + 1
          schedule := s.schedule.drop (len.toNat + 1)
          turn := s.turn + (len.toNat + 1) }) ∧
    (∀ k, k < len.toNat → s.mem.read (addr.toNat + k) = none →
      ∃ t, exec (.crc16CcittBufferUpdate seed addr len) s = .next t ∧
        Host.Core.run core (len.toNat + 1) t = .fault .stuck)) ∧
  (∀ n, bufferUpdateCcitt 0x0000 (List.replicate n 0x00) = 0x0000) ∧
  bufferUpdateCcitt 0x0000 [0x31, 0x32, 0x33, 0x34, 0x35, 0x36, 0x37, 0x38, 0x39] = 0x2189

/-- R111: `crc16_ccitt_false_buffer_update`, as the statement above for the other variant. -/
def Obligations.FalseBufferUpdateDeliversTheFold : Prop :=
  (∀ (seed : Word) (byte : Byte) (addr len : BitVec Config.addrWidth),
    decode { cmd := 0b110, crcIn := seed, byteIn := byte, addr, len } =
      .ok (.crc16CcittFalseBufferUpdate seed addr len)) ∧
  (∀ (seed : Word) (addr len : BitVec Config.addrWidth) (s : State),
    2 ^ Config.addrWidth < addr.toNat + len.toNat →
    exec (.crc16CcittFalseBufferUpdate seed addr len) s = .refused .range) ∧
  (∀ (seed : Word) (addr len : BitVec Config.addrWidth) (s : State),
    addr.toNat + len.toNat ≤ 2 ^ Config.addrWidth →
    exec (.crc16CcittFalseBufferUpdate seed addr len) s = .next { s with
      works := s.works ++ [{
        variant := .ccittFalse, acc := seed, idx := 0, len := len.toNat, addr := addr.toNat, ticket := s.accepted
        held := [] }]
      accepted := s.accepted + 1 }) ∧
  (∀ (seed : Word) (addr len : BitVec Config.addrWidth) (s : State),
    addr.toNat + len.toNat ≤ 2 ^ Config.addrWidth → s.quiet →
    (∀ bs, s.mem.buffer addr.toNat len.toNat = some bs →
      ∃ t, exec (.crc16CcittFalseBufferUpdate seed addr len) s = .next t ∧
        Host.Core.run core (len.toNat + 1) t = .next { s with
          responses := s.responses ++ [{ ticket := s.accepted, crcOut := bs.foldl byteUpdateFalse seed }]
          accepted := s.accepted + 1
          schedule := s.schedule.drop (len.toNat + 1)
          turn := s.turn + (len.toNat + 1) }) ∧
    (∀ k, k < len.toNat → s.mem.read (addr.toNat + k) = none →
      ∃ t, exec (.crc16CcittFalseBufferUpdate seed addr len) s = .next t ∧
        Host.Core.run core (len.toNat + 1) t = .fault .stuck)) ∧
  (∀ n, bufferUpdateFalse 0x0000 (List.replicate n 0x00) = 0x0000) ∧
  bufferUpdateFalse 0xFFFF [0x31, 0x32, 0x33, 0x34, 0x35, 0x36, 0x37, 0x38, 0x39] = 0x29B1

/-- R112: a buffer-update of length 0, at any address and over any memory, is answered with its seed by the delivery
alone: no byte is read. -/
def Obligations.EmptyBufferReturnsTheSeed : Prop :=
  ∀ (v : Variant) (seed : Word) (addr : BitVec Config.addrWidth) (s : State), s.quiet →
    bufferUpdateAlone v seed addr 0 s = .next { s with
      responses := s.responses ++ [{ ticket := s.accepted, crcOut := seed }]
      accepted := s.accepted + 1
      schedule := s.schedule.drop 1
      turn := s.turn + 1 }

/-- R113: for every seed and every readable buffer, in both variants, the response to the buffer-update is the last
response to byte-updates over its bytes, each seeded with the response before. -/
def Obligations.BufferUpdateEqualsByteUpdates : Prop :=
  ∀ (v : Variant) (seed : Word) (addr len : BitVec Config.addrWidth) (bs : List Byte) (s : State),
    addr.toNat + len.toNat ≤ 2 ^ Config.addrWidth → s.quiet → s.mem.buffer addr.toNat len.toNat = some bs →
    ∃ t u crc, bufferUpdateAlone v seed addr len s = .next t ∧ threadBytes v seed bs s = some (crc, u) ∧
      t.lastCrc = some crc ∧ crc = bufferUpdate v seed bs

/-- R114: for every split point, the buffer-update over the whole equals the one over the second part seeded with the
response to the one over the first. The second part starts at `addr + k`; where it is empty its address is any at all, as
it is not used. -/
def Obligations.SplitBufferChains : Prop :=
  ∀ (v : Variant) (seed : Word) (addr mid len k n : BitVec Config.addrWidth) (bs : List Byte) (s : State),
    len.toNat = k.toNat + n.toNat → (n ≠ 0 → mid.toNat = addr.toNat + k.toNat) →
    addr.toNat + len.toNat ≤ 2 ^ Config.addrWidth → s.quiet → s.mem.buffer addr.toNat len.toNat = some bs →
    ∃ (t1 t2 t3 : State) (c whole : Word),
      bufferUpdateAlone v seed addr k s = .next t1 ∧ t1.lastCrc = some c ∧
      bufferUpdateAlone v c mid n t1 = .next t2 ∧ t2.lastCrc = some whole ∧
      bufferUpdateAlone v seed addr len s = .next t3 ∧ t3.lastCrc = some whole

/-- A message followed by its own result, low byte first in the CCITT variant and high byte first in the CCITT-FALSE
variant, leaves 0x0000 (42_buffer_update.md section 4, "Residue laws", which the spec marks as derived). -/
def Obligations.AppendedResultLeavesZero : Prop :=
  ∀ (seed : Word) (b : List Byte),
    bufferUpdateCcitt seed (b ++ [(bufferUpdateCcitt seed b).extractLsb' 0 8,
      (bufferUpdateCcitt seed b).extractLsb' 8 8]) = 0x0000 ∧
    bufferUpdateFalse seed (b ++ [(bufferUpdateFalse seed b).extractLsb' 8 8,
      (bufferUpdateFalse seed b).extractLsb' 0 8]) = 0x0000

/-- The polynomial over GF(2) of a bit vector: bit `k` is the coefficient of x^k. -/
noncomputable def Sys2Proof.Machine.bitPoly {n : Nat} (v : BitVec n) : Polynomial (ZMod 2) :=
  ∑ k ∈ Finset.range n, if v.getLsbD k then Polynomial.X ^ k else 0

/-- The generator polynomial x^16+x^12+x^5+1 (R1). -/
noncomputable def Sys2Proof.Machine.generator : Polynomial (ZMod 2) :=
  Polynomial.X ^ 16 + Polynomial.X ^ 12 + Polynomial.X ^ 5 + 1

/-- The message polynomial of a byte sequence, the first byte the most significant. -/
noncomputable def Sys2Proof.Machine.messagePoly (b : List Byte) : Polynomial (ZMod 2) :=
  b.foldl (fun p x => p * Polynomial.X ^ 8 + bitPoly x) 0

/-- What both buffer-updates compute is a remainder modulo the generator polynomial: of the message times x^16 plus the
seed moved ahead of it; in the CCITT variant bytes, seed and result are bit-reversed (the source's definition of a CRC,
00_scope.md section 8; 40_table_lookup.md section 1, "Equivalently `T_false[i]` is the remainder", which the spec marks
as derived). -/
def Obligations.BufferUpdatesAreRemainders : Prop :=
  ∀ (seed : Word) (b : List Byte),
    bitPoly (bufferUpdateFalse seed b) =
      (bitPoly seed * Polynomial.X ^ (8 * b.length) + messagePoly b * Polynomial.X ^ 16) %ₘ generator ∧
    bitPoly (bufferUpdateCcitt seed b).reverse =
      (bitPoly seed.reverse * Polynomial.X ^ (8 * b.length) +
        messagePoly (b.map BitVec.reverse) * Polynomial.X ^ 16) %ₘ generator

/-! ## Buffer-updates in progress -/

/-- `step` of R115: the byte step that moves is of a buffer-update in progress with bytes left; over an undisturbed
buffer it consumes the byte at `addr + idx`; `idx` advances by one, the accumulator by one byte-update of the variant,
and every other buffer-update, the memory, the responses and what callers will present stay as they are. -/
def Obligations.ByteStepConsumesTheNextByte : Prop :=
  ∀ (s : State) (k : Nat) (w : Work) (b : Byte), s.nextTransition = some (.byteStep k w b) →
    s.works[k]? = some w ∧ w.idx < w.len ∧
    (w.held = [] → s.mem.read (w.addr + w.idx) = some b) ∧
    step s = .next { s with
      works := s.works.set k { w with
        acc := (match w.variant with | .ccitt => byteUpdateCcitt w.acc b | .ccittFalse => byteUpdateFalse w.acc b)
        idx := w.idx + 1 }
      schedule := s.schedule.tail
      turn := s.turn + 1 }

/-- `deliver` of R115: the delivery that moves is of a buffer-update in progress that has consumed its whole buffer; its
accumulator is the response to its request, its working state is discarded, and nothing else changes. -/
def Obligations.DeliveryAnswersTheAccumulator : Prop :=
  ∀ (s : State) (k : Nat) (w : Work), s.nextTransition = some (.deliver k w) →
    s.works[k]? = some w ∧ w.idx = w.len ∧
    step s = .next { s with
      works := s.works.eraseIdx k
      responses := s.responses ++ [{ ticket := w.ticket, crcOut := w.acc }]
      schedule := s.schedule.tail
      turn := s.turn + 1 }

/-- R35: a buffer-update whose next byte is not readable has no step. Whatever else moves, short of a reset or a write
of a caller, it stays exactly as it is, so it delivers nothing; and when all that is in progress is so, and callers
have nothing to present, the machine is stuck. -/
def Obligations.UnreadableByteIsStuck : Prop :=
  (∀ (s t : State) (w : Work), w ∈ s.works → w.idx < w.len → s.mem.read (w.addr + w.idx) = none → step s = .next t →
    s.nextTransition ≠ some .reset → (∀ a v, s.nextTransition ≠ some (.callerWrite a v)) → w ∈ t.works) ∧
  (∀ s : State, s.inputs = [] → s.works ≠ [] →
    (∀ w ∈ s.works, w.idx < w.len ∧ s.mem.read (w.addr + w.idx) = none) → step s = .fault .stuck)

/-- R134: a reserved code is refused before any operand is looked at; the range is checked before any byte is read;
and a buffer-update whose byte `k` is the first unreadable one consumes the `k` bytes before it and is then stuck,
delivering nothing. -/
def Obligations.ChecksComeInOrder : Prop :=
  (∀ (cmd : BitVec 3) (crc : Word) (byte : Byte) (addr len : BitVec Config.addrWidth) (s : State), (cmd = 0b011 ∨ cmd = 0b111) →
    serve { cmd, crcIn := crc, byteIn := byte, addr, len } s = .refused .reservedCmd) ∧
  (∀ (v : Variant) (seed : Word) (addr len : BitVec Config.addrWidth) (s : State),
    2 ^ Config.addrWidth < addr.toNat + len.toNat →
    exec (bufferUpdateInstr v seed addr len) s = .refused .range) ∧
  (∀ (v : Variant) (seed : Word) (addr len : BitVec Config.addrWidth) (k : Nat) (bs : List Byte) (s : State),
    addr.toNat + len.toNat ≤ 2 ^ Config.addrWidth → s.quiet → k < len.toNat → s.mem.buffer addr.toNat k = some bs →
    s.mem.read (addr.toNat + k) = none →
    ∃ t u, exec (bufferUpdateInstr v seed addr len) s = .next t ∧ Host.Core.run core k t = .next u ∧
      u.works = [{
        variant := v, acc := bufferUpdate v seed bs, idx := k, len := len.toNat, addr := addr.toNat, ticket := s.accepted
        held := [] }] ∧
      u.responses = s.responses ∧ step u = .fault .stuck)

/-- The converse: the machine is stuck only when callers have nothing enabled and no buffer-update in progress can move,
so that one stuck request holds no other up (20_memory.md section 6: each request as if alone). That the fault stands for
this case, and only this one, is the model's reading (DEDUCED, log entry 11). -/
def Obligations.StuckOnlyWhenNothingCanMove : Prop :=
  ∀ s : State, step s = .fault .stuck →
    s.enabledInput = [] ∧ s.works ≠ [] ∧
      ∀ w ∈ s.works, w.idx ≠ w.len ∧ (w.idx < w.len → s.mem.read (w.addr + w.idx) = none)

/-- Where a caller broke its duty of stability, the byte consumed is one that the address holds now or held during the
operation (20_memory.md section 6, "some byte that address `addr + i` held at some time during the operation"); the
record of such bytes is the model's (log entry 7). -/
def Obligations.UnstableByteWasHeld : Prop :=
  ∀ (s : State) (k : Nat) (w : Work) (b : Byte), s.nextTransition = some (.byteStep k w b) →
    ∃ now, s.mem.read (w.addr + w.idx) = some now ∧ (b = now ∨ (w.addr + w.idx, b) ∈ w.held)

/-- R38: requests in progress do not disturb one another. Whatever moves, by whatever choice, other than a reset or a
write into its own buffer, a request that owes the response `v` still owes it or has delivered it. -/
def Obligations.OwedResponseIsKept : Prop :=
  ∀ (s t : State) (ticket : Nat) (v : Word), s.Owes ticket v →
    (∀ tr, s.nextTransition = some tr → s.Undisturbed ticket tr) → step s = .next t → t.Owes ticket v

/-- R116: with every buffer in progress readable and nothing more presented, whatever the choices, exactly one byte step
for each byte left and one delivery for each request are made (`turn` counts the moves, and a wait is none); then nothing
is in progress, every request over an undisturbed buffer is answered with the fold of its byte-updates, and the run is
finished unless a reset lost a request before. -/
def Obligations.EveryRequestInProgressIsAnswered : Prop :=
  ∀ s : State, s.inputs = [] → (∀ w ∈ s.works, w.idx ≤ w.len ∧ (w.rest s.mem).isSome = true) →
    ∃ t, Host.Core.run core s.workload s = .next t ∧ t.turn = s.turn + s.workload ∧ t.works = [] ∧
      (s.NoneLost → t.finished = true) ∧
      ∀ w ∈ s.works, w.held = [] → ∀ bs, s.mem.buffer (w.addr + w.idx) (w.len - w.idx) = some bs →
        { ticket := w.ticket, crcOut := bufferUpdate w.variant w.acc bs } ∈ t.responses

/-- A refused request marks the run for good (70_reset_and_hazards.md section 5, "marked as such for good"), and leaves
the responses, the memory and everything in progress as they are (30_encoding.md section 4). That the run then goes on
with the request taken away, nothing that a request owes being lost, is the model's reading (DEDUCED, log entry 10), since
the spec asks that nothing be claimed of such a run; that no ticket is used up is its choice (log entry 5). -/
def Obligations.RefusedRequestMarksTheRun : Prop :=
  (∀ (r : Run) (x : Refusal), r.stopped = none → step r.state = .refused x →
    r.next = { r with
      state := { r.state with
        inputs := r.state.inputs.tail, schedule := r.state.schedule.tail, turn := r.state.turn + 1 }
      refused := r.refused ++ [x] } ∧
    r.next.marked = true ∧ ∀ ticket v, r.state.Owes ticket v → r.next.state.Owes ticket v) ∧
  (∀ (r : Run) (n : Nat), r.marked = true → (r.after n).marked = true)

/-- A finite list of requests, refused ones among them, over readable buffers comes to a finished run, whatever the
choices: every request not refused has its response, and nothing is in progress (70_reset_and_hazards.md section 5). A
request of the list may use the responses of requests taken up before, those of the list among them. That the run goes
on past a refused request is the model's reading (DEDUCED, log entry 10); the numbering of responses is log entry 5. -/
def Obligations.RunOverReadableBuffersFinishes : Prop :=
  ∀ s : State, s.NoneLost → (∀ w ∈ s.works, w.idx ≤ w.len ∧ (w.rest s.mem).isSome = true) →
    Servable s.mem s.inputs s.accepted →
    ∃ n, ((Run.start s).after n).finished = true ∧ ((Run.start s).after n).stopped = none

/-- The unfinished runs: while a request accepted has no response, or a working state remains, or something waits to be
presented, the run is not finished; so a run with a stuck request, or with one lost to a reset, is not
(70_reset_and_hazards.md section 5). That a caller's write or a reset still waiting counts, too, is the model's choice
(log entry 20). -/
def Obligations.UnansweredRequestIsUnfinished : Prop :=
  ∀ s : State, s.finished = true ↔
    s.inputs = [] ∧ s.works = [] ∧ ∀ ticket < s.accepted, ∃ r ∈ s.responses, r.ticket = ticket

/-- No step takes a response back, and no step delivers more than one. -/
def Obligations.ResponsesOnlyGrow : Prop :=
  ∀ s t : State, step s = .next t → t.responses = s.responses ∨ ∃ r, t.responses = s.responses ++ [r]

/-! ## Memory, reset, invariant -/

/-- R36: no step other than the caller's own write changes any byte of the memory. -/
def Obligations.BlockNeverWritesMemory : Prop :=
  ∀ s t : State, step s = .next t → (∀ a v, s.nextTransition ≠ some (.callerWrite a v)) →
    ∀ a, t.mem.read a = s.mem.read a

/-- A caller's write inside the address space is what is read afterwards, and every other byte reads as before
(20_memory.md section 5, "return the byte last written by the caller"); every buffer-update in progress keeps its whole
working state, and records the byte overwritten exactly where its buffer covers the address and that byte was readable,
which is the model's record (log entry 7). A write outside the space faults, which is the model's choice (log entry 3). -/
def Obligations.CallerWriteIsReadBack : Prop :=
  ∀ (s : State) (a : Nat) (v : Option Byte), s.nextTransition = some (.callerWrite a v) → s.mem.wf →
    (a < 2 ^ Config.addrWidth → ∃ t, step s = .next t ∧ t.mem.read a = v ∧
      (∀ a', a' ≠ a → t.mem.read a' = s.mem.read a') ∧ t.responses = s.responses ∧ t.accepted = s.accepted ∧
      t.works = s.works.map (fun w => { w with
        held := (match s.mem.read a with
          | some old => if w.addr ≤ a ∧ a < w.addr + w.len then (a, old) :: w.held else w.held
          | none => w.held) })) ∧
    (2 ^ Config.addrWidth ≤ a → step s = .fault .noSuchAddress)

/-- R151: reset discards every buffer-update in progress and delivers nothing, and no continuation of the run ever
answers a discarded request. That the memory, the responses delivered before and what callers will present stay as they
are is the model's choice (log entry 17). -/
def Obligations.ResetDiscardsWhatIsInProgress : Prop :=
  ∀ s : State, s.nextTransition = some .reset →
    step s = .next { s with
      works := [], inputs := s.inputs.tail, schedule := s.schedule.tail, turn := s.turn + 1 } ∧
    (s.Inv → ∀ (n : Nat) (t u : State), step s = .next t → Host.Core.run core n t = .next u →
      ∀ w ∈ s.works, ∀ r ∈ u.responses, r.ticket ≠ w.ticket)

/-- R21: after reset no buffer-update is in progress, both tables hold their constants, and no seed is implied; so it is
whatever parameters the run is given (R22), the memory, the requests and the service order among them. That the host's
reset is the one with all of these empty is the model's choice (log entries 1, 3, 4, 6) and not part of this. -/
def Obligations.ResetLeavesNothingInProgress : Prop :=
  ∀ p : Parameters,
    (State.resetWith p).works = [] ∧ (State.resetWith p).toParameters = p ∧
    (∀ i : Byte, exec (.crc16CcittLookupTable i) (State.resetWith p) =
      .next ((State.resetWith p).respond (generateCcitt i))) ∧
    (∀ i : Byte, exec (.crc16CcittFalseLookupTable i) (State.resetWith p) =
      .next ((State.resetWith p).respond (generateFalse i)))

/-- A block to which nothing is presented and in which nothing is in progress waits: a step leaves every field as it
is. The spec has no such step; it is the model's choice (log entry 12). -/
def Obligations.QuietBlockWaits : Prop := ∀ s : State, s.quiet → step s = .next s

/-- The invariant holds at reset: at the host's, and under any parameters whose memory is in its form and in the address
space. -/
def Obligations.ResetMeetsTheInvariant : Prop :=
  State.reset.Inv ∧ ∀ p : Parameters, p.mem.wf → (∀ c ∈ p.mem, c.1 < 2 ^ Config.addrWidth) → (State.resetWith p).Inv

/-- The parameters of a run (R22) are fixed from its start, and what the run carries of them is no state of its own: after
any number of steps, refused requests passed over or not, the choices left are those given without the ones used up, what
waits to be presented is the rest of the list given, and the memory is the one given with the writes that callers have
made since (20_memory.md section 5: "the byte last written by the caller"). How a run carries them is the model's (log
entries 1, 4, 6, 10). -/
def Obligations.RunOnlyCarriesItsParameters : Prop :=
  ∀ (p : Parameters) (n : Nat), ∃ k,
    ((Run.start (State.resetWith p)).after n).state.schedule =
      p.schedule.drop ((Run.start (State.resetWith p)).after n).state.turn ∧
    ((Run.start (State.resetWith p)).after n).state.inputs = p.inputs.drop k ∧
    ((Run.start (State.resetWith p)).after n).state.mem =
      p.mem.afterEvents ((Run.start (State.resetWith p)).after n).state.responses (p.inputs.take k)

/-- A run from reset comes to its finish whatever its parameters (R22): over any memory, for any list of requests that can
be served over it, with any service order, it answers every request not refused. That it goes on past refused requests is
the model's reading (DEDUCED, log entry 10), the numbering of responses is log entry 5. -/
def Obligations.RunFromResetFinishesUnderAnyParameters : Prop :=
  ∀ p : Parameters, Servable p.mem p.inputs 0 →
    ∃ n, ((Run.start (State.resetWith p)).after n).finished = true ∧
      ((Run.start (State.resetWith p)).after n).stopped = none ∧
      ((Run.start (State.resetWith p)).after n).state.mem = p.mem

/-- Every step keeps the invariant: memory canonical and inside the space, `idx <= len < 2^LW`, `addr < 2^AW` and
`addr + len <= 2^AW` for every buffer-update in progress (R15, R18, R34, R53), and no request answered twice or while in
progress (R50). -/
def Obligations.StepKeepsTheInvariant : Prop :=
  ∀ s t : State, s.Inv → step s = .next t → t.Inv
end

