-- ==== Sys2Proof/Laws/Decode.lean ====
section
/-! SUPPORT. The packing of numbers into bits and back, and the decoding of each encoded constructor. -/

namespace Sys2Proof

@[simp] theorem bitsOfNat_length (n v : Nat) : (bitsOfNat n v).length = n := by
  induction n generalizing v with
  | zero => rfl
  | succ n ih => simp [bitsOfNat, ih]

theorem natOfBits_bitsOfNat (n v : Nat) : natOfBits (bitsOfNat n v) = v % 2 ^ n := by
  induction n generalizing v with
  | zero => simp [bitsOfNat, natOfBits, Nat.mod_one]
  | succ n ih =>
    simp only [bitsOfNat, natOfBits, ih]
    rw [Nat.pow_succ', Nat.mod_mul]
    rcases Nat.mod_two_eq_zero_or_one v with h | h <;> simp [h]

theorem natOfBits_lt (bs : List Bool) : natOfBits bs < 2 ^ bs.length := by
  induction bs with
  | nil => simp [natOfBits]
  | cons b bs ih =>
    have := Bool.toNat_le b
    simp only [natOfBits, List.length_cons, Nat.pow_succ]
    omega

/-- A field laid out in front of others is read back by its width, and the others follow it. -/
theorem natOfBits_take_field (n v : Nat) (rest : List Bool) : natOfBits ((bitsOfNat n v ++ rest).take n) = v % 2 ^ n := by
  rw [List.take_left' (bitsOfNat_length n v), natOfBits_bitsOfNat]

theorem drop_field (n v : Nat) (rest : List Bool) : (bitsOfNat n v ++ rest).drop n = rest :=
  List.drop_left' (bitsOfNat_length n v)

/-- The last field laid out is read back by its width. -/
theorem natOfBits_take_last (n v : Nat) : natOfBits ((bitsOfNat n v).take n) = v % 2 ^ n := by
  simpa using natOfBits_take_field n v []

/-- A request laid out as bits takes the bits of its fields. -/
theorem Request.toBits_length {aw : Nat} (r : Request aw) : r.toBits.length = 27 + 2 * aw := by
  simp [Request.toBits]
  omega

end Sys2Proof
end

