-- ==== Sys2Proof/Laws/State.lean ====
section
/-! SUPPORT. What each update of the state does to each field, and what a few shared operations can answer. -/

namespace Sys2Proof.Machine

/-! ## The block's own operations -/

@[simp] theorem Block.reset_works : Block.reset.works = [] := rfl
@[simp] theorem Block.begin_works (b : Block) (w : Work) : (b.begin w).works = b.works ++ [w] := rfl
@[simp] theorem Block.byteStep_works (blk : Block) (k : Nat) (w : Work) (b : Byte) :
    (blk.byteStep k w b).works =
      blk.works.set k { w with acc := byteUpdate w.variant w.acc b, idx := w.idx + 1 } := rfl
@[simp] theorem Block.deliver_works (blk : Block) (k : Nat) : (blk.deliver k).works = blk.works.eraseIdx k := rfl
@[simp] theorem Block.overwritten_works (b : Block) (a : Nat) (old : Option Byte) :
    (b.overwritten a old).works = b.works.map (Work.overwritten a old) := rfl

/-! ## Reset -/

@[simp] theorem State.resetWith_toParameters (p : Parameters) : (State.resetWith p).toParameters = p := rfl
@[simp] theorem State.resetWith_toBlock (p : Parameters) : (State.resetWith p).toBlock = Block.reset := rfl
@[simp] theorem State.resetWith_responses (p : Parameters) : (State.resetWith p).responses = [] := rfl
@[simp] theorem State.resetWith_accepted (p : Parameters) : (State.resetWith p).accepted = 0 := rfl
@[simp] theorem State.resetWith_turn (p : Parameters) : (State.resetWith p).turn = 0 := rfl

/-! ## `respond` -/

@[simp] theorem State.respond_works (s : State) (v : Word) : (s.respond v).works = s.works := rfl
@[simp] theorem State.respond_inputs (s : State) (v : Word) : (s.respond v).inputs = s.inputs := rfl
@[simp] theorem State.respond_responses (s : State) (v : Word) :
    (s.respond v).responses = s.responses ++ [{ ticket := s.accepted, crcOut := v }] := rfl
@[simp] theorem State.respond_mem (s : State) (v : Word) : (s.respond v).mem = s.mem := rfl
@[simp] theorem State.respond_accepted (s : State) (v : Word) : (s.respond v).accepted = s.accepted + 1 := rfl
@[simp] theorem State.respond_schedule (s : State) (v : Word) : (s.respond v).schedule = s.schedule := rfl
@[simp] theorem State.respond_turn (s : State) (v : Word) : (s.respond v).turn = s.turn := rfl

/-! ## `moved` and `taken` -/

@[simp] theorem State.moved_works (s : State) : s.moved.works = s.works := rfl
@[simp] theorem State.moved_inputs (s : State) : s.moved.inputs = s.inputs := rfl
@[simp] theorem State.moved_responses (s : State) : s.moved.responses = s.responses := rfl
@[simp] theorem State.moved_mem (s : State) : s.moved.mem = s.mem := rfl
@[simp] theorem State.moved_accepted (s : State) : s.moved.accepted = s.accepted := rfl
@[simp] theorem State.moved_schedule (s : State) : s.moved.schedule = s.schedule.tail := rfl
@[simp] theorem State.moved_turn (s : State) : s.moved.turn = s.turn + 1 := rfl

@[simp] theorem State.taken_works (s : State) : s.taken.works = s.works := rfl
@[simp] theorem State.taken_inputs (s : State) : s.taken.inputs = s.inputs.tail := rfl
@[simp] theorem State.taken_responses (s : State) : s.taken.responses = s.responses := rfl
@[simp] theorem State.taken_mem (s : State) : s.taken.mem = s.mem := rfl
@[simp] theorem State.taken_accepted (s : State) : s.taken.accepted = s.accepted := rfl
@[simp] theorem State.taken_schedule (s : State) : s.taken.schedule = s.schedule.tail := rfl
@[simp] theorem State.taken_turn (s : State) : s.taken.turn = s.turn + 1 := rfl

/-! ## `byteStep` and `deliver` -/

@[simp] theorem State.byteStep_works (s : State) (k : Nat) (w : Work) (b : Byte) :
    (s.byteStep k w b).works =
      s.works.set k { w with acc := byteUpdate w.variant w.acc b, idx := w.idx + 1 } := rfl
@[simp] theorem State.byteStep_inputs (s : State) (k : Nat) (w : Work) (b : Byte) :
    (s.byteStep k w b).inputs = s.inputs := rfl
@[simp] theorem State.byteStep_responses (s : State) (k : Nat) (w : Work) (b : Byte) :
    (s.byteStep k w b).responses = s.responses := rfl
@[simp] theorem State.byteStep_mem (s : State) (k : Nat) (w : Work) (b : Byte) : (s.byteStep k w b).mem = s.mem := rfl
@[simp] theorem State.byteStep_accepted (s : State) (k : Nat) (w : Work) (b : Byte) :
    (s.byteStep k w b).accepted = s.accepted := rfl
@[simp] theorem State.byteStep_schedule (s : State) (k : Nat) (w : Work) (b : Byte) :
    (s.byteStep k w b).schedule = s.schedule := rfl
@[simp] theorem State.byteStep_turn (s : State) (k : Nat) (w : Work) (b : Byte) :
    (s.byteStep k w b).turn = s.turn := rfl

@[simp] theorem State.deliver_works (s : State) (k : Nat) (w : Work) : (s.deliver k w).works = s.works.eraseIdx k := rfl
@[simp] theorem State.deliver_inputs (s : State) (k : Nat) (w : Work) : (s.deliver k w).inputs = s.inputs := rfl
@[simp] theorem State.deliver_responses (s : State) (k : Nat) (w : Work) :
    (s.deliver k w).responses = s.responses ++ [{ ticket := w.ticket, crcOut := w.acc }] := rfl
@[simp] theorem State.deliver_mem (s : State) (k : Nat) (w : Work) : (s.deliver k w).mem = s.mem := rfl
@[simp] theorem State.deliver_accepted (s : State) (k : Nat) (w : Work) : (s.deliver k w).accepted = s.accepted := rfl
@[simp] theorem State.deliver_schedule (s : State) (k : Nat) (w : Work) : (s.deliver k w).schedule = s.schedule := rfl
@[simp] theorem State.deliver_turn (s : State) (k : Nat) (w : Work) : (s.deliver k w).turn = s.turn := rfl

/-! ## `discardWorks` -/

@[simp] theorem State.discardWorks_works (s : State) : s.discardWorks.works = [] := rfl
@[simp] theorem State.discardWorks_inputs (s : State) : s.discardWorks.inputs = s.inputs := rfl
@[simp] theorem State.discardWorks_responses (s : State) : s.discardWorks.responses = s.responses := rfl
@[simp] theorem State.discardWorks_mem (s : State) : s.discardWorks.mem = s.mem := rfl
@[simp] theorem State.discardWorks_accepted (s : State) : s.discardWorks.accepted = s.accepted := rfl
@[simp] theorem State.discardWorks_schedule (s : State) : s.discardWorks.schedule = s.schedule := rfl
@[simp] theorem State.discardWorks_turn (s : State) : s.discardWorks.turn = s.turn := rfl

/-! ## `accept`, `callerWrite`, `waitOrStuck` -/

theorem inRange_iff (aw addr len : Nat) : inRange aw addr len = true ↔ addr + len ≤ 2 ^ aw := by
  have := Nat.two_pow_pos aw
  unfold inRange
  split <;> simp <;> omega

theorem State.accept_inRange {aw : Nat} {addr len : BitVec aw} (h : addr.toNat + len.toNat ≤ 2 ^ aw) (v : Variant)
    (seed : Word) (s : State) :
    s.accept v seed addr len = .next { s with
      works := s.works ++ [Work.start v seed addr.toNat len.toNat s.accepted], accepted := s.accepted + 1 } := by
  simp [State.accept, Block.begin, (inRange_iff aw _ _).2 h]

theorem State.accept_outOfRange {aw : Nat} {addr len : BitVec aw} (h : 2 ^ aw < addr.toNat + len.toNat) (v : Variant)
    (seed : Word) (s : State) : s.accept v seed addr len = .refused .range := by
  have : ¬ inRange aw addr.toNat len.toNat = true := by rw [inRange_iff]; omega
  simp [State.accept, this]

/-- Everything `accept` can do when it answers a next state. -/
theorem State.accept_next {aw : Nat} {addr len : BitVec aw} {v : Variant} {seed : Word} {s t : State}
    (h : s.accept v seed addr len = .next t) :
    addr.toNat + len.toNat ≤ 2 ^ aw ∧ t = { s with
      works := s.works ++ [Work.start v seed addr.toNat len.toNat s.accepted], accepted := s.accepted + 1 } := by
  by_cases hr : addr.toNat + len.toNat ≤ 2 ^ aw
  · rw [State.accept_inRange hr] at h
    cases h
    exact ⟨hr, rfl⟩
  · rw [State.accept_outOfRange (by omega)] at h
    cases h

/-- Everything `callerWrite` can do when it answers a next state. -/
theorem State.callerWrite_next {aw a : Nat} {v : Option Byte} {s t : State} (h : s.callerWrite aw a v = .next t) :
    a < 2 ^ aw ∧
      t = { s with mem := s.mem.set a v, works := s.works.map (Work.overwritten a (s.mem.read a)) } := by
  unfold State.callerWrite at h
  split at h
  · cases h
    exact ⟨‹_›, rfl⟩
  · cases h

/-- Everything `waitOrStuck` can do when it answers a next state. -/
theorem State.waitOrStuck_next {s t : State} (h : s.waitOrStuck = .next t) : s.works = [] ∧ t = s := by
  unfold State.waitOrStuck at h
  split at h
  · cases h
    exact ⟨by simpa using ‹s.works.isEmpty = true›, rfl⟩
  · cases h

end Sys2Proof.Machine
end

