-- ==== Sys2Proof/Laws/Engine.lean ====
section
/-! SUPPORT. Everything a step can do, said once: which transition can move, and the state it leads to. -/

namespace Sys2Proof.Machine

theorem choose_mem {α : Type} (c : Nat) (x : α) (l : List α) : choose c x l ∈ x :: l := by
  cases l with
  | nil => simp [choose]
  | cons y ys =>
    have h : c % (ys.length + 2) < (x :: y :: ys).length := Nat.mod_lt c (by omega)
    simp only [choose, List.getD_eq_getElem _ _ h]
    exact List.getElem_mem h

@[simp] theorem choose_nil {α : Type} (c : Nat) (x : α) : choose c x [] = x := rfl

@[simp] theorem choose_zero {α : Type} (x : α) (l : List α) : choose 0 x l = x := by
  cases l <;> simp [choose]

/-- The transition that moves is an enabled one. -/
theorem State.nextTransition_mem {s : State} {t : Transition} (h : s.nextTransition = some t) : t ∈ s.enabled := by
  unfold State.nextTransition at h
  split at h
  · cases h
  · next x l hx =>
    cases h
    rw [hx]
    exact choose_mem _ _ _

theorem State.nextTransition_none {s : State} : s.nextTransition = none ↔ s.enabled = [] := by
  unfold State.nextTransition
  split <;> simp_all

/-- A transition of a buffer-update in progress, as R115 gives it. -/
theorem Work.enabled_cases {choice k : Nat} {m : Memory} {w : Work} {t : Transition} (h : w.enabled choice m k = some t) :
    (w.idx = w.len ∧ t = .deliver k w) ∨
      (w.idx < w.len ∧ ∃ b, w.consumed choice m = some b ∧ t = .byteStep k w b) := by
  unfold Work.enabled at h
  split at h
  · exact .inl ⟨‹_›, (Option.some.inj h).symm⟩
  · split at h
    · obtain ⟨b, hb, rfl⟩ := Option.map_eq_some_iff.1 h
      exact .inr ⟨‹_›, b, hb, rfl⟩
    · cases h

/-- The byte consumed is the byte at the next address, or, where that address was overwritten during the operation, one
that it held. -/
theorem Work.consumed_cases {choice : Nat} {m : Memory} {w : Work} {b : Byte} (h : w.consumed choice m = some b) :
    ∃ b', m.read w.nextAddr = some b' ∧ (b = b' ∨ b ∈ w.heldAt w.nextAddr) := by
  obtain ⟨b', hb, rfl⟩ := Option.map_eq_some_iff.1 h
  exact ⟨b', hb, by simpa using choose_mem choice b' (w.heldAt w.nextAddr)⟩

theorem Work.consumed_stable {choice : Nat} {m : Memory} {w : Work} (h : w.held = []) :
    w.consumed choice m = m.read w.nextAddr := by
  simp [Work.consumed, Work.heldAt, h]

/-- Where an enabled transition of a buffer-update comes from. -/
theorem State.mem_enabledWorks {s : State} {t : Transition} :
    t ∈ s.enabledWorks ↔
      ∃ (k : Nat) (w : Work), s.works[k]? = some w ∧ w.enabled (Config.heldByte s.turn) s.mem k = some t := by
  unfold State.enabledWorks Block.enabled
  simp only [List.mem_filterMap]
  constructor
  · rintro ⟨⟨w, k⟩, hp, ht⟩
    exact ⟨k, w, List.mem_zipIdx_iff_getElem?.1 hp, ht⟩
  · rintro ⟨k, w, hk, ht⟩
    exact ⟨(w, k), List.mem_zipIdx_iff_getElem?.2 (by simpa using hk), ht⟩

/-- What callers can do is the first thing of `inputs`. -/
theorem State.mem_enabledInput {s : State} {t : Transition} (h : t ∈ s.enabledInput) :
    (∃ r', t = .present r' ∧ ∃ links r rest,
        s.inputs = .request links r :: rest ∧ fill Request.put s.responses links r = some r') ∨
      (∃ w, t = .callerWrite w.1 w.2 ∧ ∃ links a v rest,
        s.inputs = .callerWrite links a v :: rest ∧ fill putWrite s.responses links (a, v) = some w) ∨
      (t = .reset ∧ ∃ rest, s.inputs = .reset :: rest) := by
  unfold State.enabledInput at h
  split at h
  · cases h
  · next links r rest hi =>
    split at h
    · next r' hr =>
      exact .inl ⟨r', List.mem_singleton.1 h, links, r, rest, hi, hr⟩
    · cases h
  · next links a v rest hi =>
    split at h
    · next w hw =>
      exact .inr (.inl ⟨w, List.mem_singleton.1 h, links, a, v, rest, hi, hw⟩)
    · cases h
  · next rest hi =>
    exact .inr (.inr ⟨List.mem_singleton.1 h, rest, hi⟩)

/-- What waits for a response that does not exist is not filled. -/
theorem fill_missing {α : Type} {put : Slot → Word → α → α} {rs : List Response} {links : List Link} {l : Link}
    (hl : l ∈ links) (hr : ∀ x ∈ rs, x.ticket ≠ l.ticket) (x : α) : fill put rs links x = none := by
  have hnone : responseTo l.ticket rs = none := by
    have : rs.find? (fun r => r.ticket == l.ticket) = none := by simpa using hr
    simp [responseTo, this]
  induction links generalizing x with
  | nil => cases hl
  | cons k ks ih =>
    unfold fill
    rcases List.mem_cons.1 hl with rfl | hl
    · rw [hnone]
    · split
      · exact ih hl _
      · rfl

/-- The alternative that a choice names can be any of them. -/
theorem choose_surjective {α : Type} {x y : α} {l : List α} (h : y ∈ x :: l) : ∃ c, choose c x l = y := by
  cases l with
  | nil => exact ⟨0, (List.mem_singleton.1 h).symm⟩
  | cons z zs =>
    obtain ⟨n, hn, rfl⟩ := List.getElem_of_mem h
    refine ⟨n, ?_⟩
    have : n % (zs.length + 2) = n := Nat.mod_eq_of_lt hn
    simp only [choose, this, List.getD_eq_getElem _ _ hn]

/-- A byte step that moves: of a buffer-update in progress, with a byte left, consuming what R115 says. -/
theorem State.byteStep_moves {s : State} {k : Nat} {w : Work} {b : Byte}
    (h : s.nextTransition = some (.byteStep k w b)) :
    s.works[k]? = some w ∧ w.idx < w.len ∧ w.consumed (Config.heldByte s.turn) s.mem = some b := by
  rcases List.mem_append.1 (State.nextTransition_mem h) with h | h
  · rcases State.mem_enabledInput h with ⟨r, h, _⟩ | ⟨w, h, _⟩ | ⟨h, _⟩ <;> cases h
  · obtain ⟨k', w', hk, ht⟩ := State.mem_enabledWorks.1 h
    rcases Work.enabled_cases ht with ⟨_, h⟩ | ⟨hlt, b', hb, h⟩
    · cases h
    · cases h
      exact ⟨hk, hlt, hb⟩

/-- A delivery that moves: of a buffer-update in progress that has consumed its whole buffer. -/
theorem State.deliver_moves {s : State} {k : Nat} {w : Work} (h : s.nextTransition = some (.deliver k w)) :
    s.works[k]? = some w ∧ w.idx = w.len := by
  rcases List.mem_append.1 (State.nextTransition_mem h) with h | h
  · rcases State.mem_enabledInput h with ⟨r, h, _⟩ | ⟨w, h, _⟩ | ⟨h, _⟩ <;> cases h
  · obtain ⟨k', w', hk, ht⟩ := State.mem_enabledWorks.1 h
    rcases Work.enabled_cases ht with ⟨he, h⟩ | ⟨hlt, b', hb, h⟩
    · cases h
      exact ⟨hk, he⟩
    · cases h

/-- Everything an instruction can do when it answers a next state: it is answered at once, or it is a buffer-update in
range and is accepted. -/
theorem exec_next {i : Instr} {s t : State} (h : exec i s = .next t) :
    (∃ v, t = s.respond v) ∨
      ∃ (v : Variant) (seed : Word) (addr len : BitVec Config.addrWidth),
        addr.toNat + len.toNat ≤ 2 ^ Config.addrWidth ∧ t = { s with
          works := s.works ++ [Work.start v seed addr.toNat len.toNat s.accepted], accepted := s.accepted + 1 } := by
  cases i with
  | crc16CcittLookupTable index => cases h; exact .inl ⟨_, rfl⟩
  | crc16CcittByteUpdate crc byte => cases h; exact .inl ⟨_, rfl⟩
  | crc16CcittBufferUpdate seed addr len =>
    obtain ⟨hr, rfl⟩ := State.accept_next h
    exact .inr ⟨_, _, _, _, hr, rfl⟩
  | crc16CcittFalseLookupTable index => cases h; exact .inl ⟨_, rfl⟩
  | crc16CcittFalseByteUpdate crc byte => cases h; exact .inl ⟨_, rfl⟩
  | crc16CcittFalseBufferUpdate seed addr len =>
    obtain ⟨hr, rfl⟩ := State.accept_next h
    exact .inr ⟨_, _, _, _, hr, rfl⟩

/-- A request taken up that leads to a next state decodes to an instruction, whose meaning leads there. -/
theorem serve_next {r : Request Config.addrWidth} {s t : State} (h : serve r s = .next t) :
    ∃ i, decode r = .ok i ∧ exec i s = .next t := by
  unfold serve at h
  split at h
  · exact ⟨_, ‹_›, h⟩
  · cases h

/-- Everything a step can do when it answers a next state. -/
theorem step_next {s t : State} (h : step s = .next t) :
    (s.nextTransition = none ∧ s.works = [] ∧ t = s) ∨
    (∃ r i, s.nextTransition = some (.present r) ∧ decode r = .ok i ∧ exec i s.taken = .next t) ∨
    (∃ a v, s.nextTransition = some (.callerWrite a v) ∧ s.taken.callerWrite Config.addrWidth a v = .next t) ∨
    (s.nextTransition = some .reset ∧ t = s.taken.discardWorks) ∨
    (∃ k w b, s.nextTransition = some (.byteStep k w b) ∧ t = s.moved.byteStep k w b) ∨
    (∃ k w, s.nextTransition = some (.deliver k w) ∧ t = s.moved.deliver k w) := by
  unfold step at h
  split at h
  · obtain ⟨hw, rfl⟩ := State.waitOrStuck_next h
    exact .inl ⟨‹_›, hw, rfl⟩
  · obtain ⟨i, hi, he⟩ := serve_next h
    exact .inr (.inl ⟨_, i, ‹_›, hi, he⟩)
  · exact .inr (.inr (.inl ⟨_, _, ‹_›, h⟩))
  · cases h
    exact .inr (.inr (.inr (.inl ⟨‹_›, rfl⟩)))
  · cases h
    exact .inr (.inr (.inr (.inr (.inl ⟨_, _, _, ‹_›, rfl⟩))))
  · cases h
    exact .inr (.inr (.inr (.inr (.inr ⟨_, _, ‹_›, rfl⟩))))

/-! ## Runs -/

theorem run_zero (s : State) : Host.Core.run Sys2Proof.core 0 s = .next s := rfl

theorem run_next {s t : State} (h : step s = .next t) (n : Nat) :
    Host.Core.run Sys2Proof.core (n + 1) s = Host.Core.run Sys2Proof.core n t := by
  have : Sys2Proof.core.step s = .next t := h
  simp only [Host.Core.run, this]

theorem run_fault {s : State} {f : Fault} (h : step s = .fault f) (n : Nat) :
    Host.Core.run Sys2Proof.core (n + 1) s = .fault f := by
  have : Sys2Proof.core.step s = .fault f := h
  simp only [Host.Core.run, this]

theorem Run.next_of_next {r : Run} {t : State} (h0 : r.stopped = none) (h : step r.state = .next t) :
    r.next = { r with state := t } := by
  simp [Run.next, h0, h]

theorem Run.next_of_refused {r : Run} {x : Refusal} (h0 : r.stopped = none) (h : step r.state = .refused x) :
    r.next = { r with state := r.state.taken, refused := r.refused ++ [x] } := by
  simp [Run.next, h0, h]

/-- A step takes no mark away. -/
theorem Run.next_refused (r : Run) : ∃ l, r.next.refused = r.refused ++ l := by
  unfold Run.next
  split
  · exact ⟨[], by simp⟩
  · split
    · exact ⟨[], by simp⟩
    · exact ⟨[], by simp⟩
    · exact ⟨_, rfl⟩

end Sys2Proof.Machine
end

