-- ==== Sys2Proof/Laws/Memory.lean ====
section
/-! SUPPORT. The laws of the buffer memory: the caller's write keeps the canonical form, is read back, and leaves every
other address alone; reading a buffer is reading its bytes. -/

namespace Sys2Proof.Machine

/-- The entries of a written memory are the entry written and entries that were there. -/
theorem Memory.mem_set {m : Memory} {a : Nat} {v : Option Byte} {c : Host.Cell} (h : c ∈ m.set a v) :
    c.1 = a ∨ c ∈ m := by
  induction m with
  | nil => cases v <;> simp_all [Memory.set]
  | cons d m ih =>
    unfold Memory.set at h
    split at h
    · cases v <;> simp at h <;> aesop
    · split at h
      · cases v <;> simp at h <;> aesop
      · simp at h
        rcases h with rfl | h
        · simp
        · rcases ih h with h | h <;> simp [h]

/-- The caller's write keeps the canonical form; it is the one operation that changes a memory. -/
theorem Memory.set_wf {m : Memory} (h : m.wf) (a : Nat) (v : Option Byte) : (m.set a v).wf := by
  induction m with
  | nil => cases v <;> simp [Memory.set, Memory.wf]
  | cons d m ih =>
    obtain ⟨hd, hm⟩ := List.pairwise_cons.1 h
    unfold Memory.set
    split
    · cases v with
      | none => exact h
      | some b =>
        refine List.pairwise_cons.2 ⟨fun c hc => ?_, h⟩
        rcases List.mem_cons.1 hc with rfl | hc
        · assumption
        · exact lt_trans ‹_› (hd c hc)
    · split
      · subst a
        cases v with
        | none => exact hm
        | some b => exact List.pairwise_cons.2 ⟨hd, hm⟩
      · refine List.pairwise_cons.2 ⟨fun c hc => ?_, ih hm⟩
        rcases Memory.mem_set hc with hc | hc
        · omega
        · exact hd c hc

/-- The memory after reset is in its canonical form. -/
theorem State.reset_mem_wf : State.reset.mem.wf := List.Pairwise.nil

/-- A byte filled by the caller is the byte read. -/
theorem Memory.read_set_some (m : Memory) (a : Nat) (b : Byte) : (m.set a (some b)).read a = some b := by
  induction m with
  | nil => simp [Memory.set, Memory.read]
  | cons d m ih =>
    unfold Memory.set
    split
    · simp [Memory.read]
    · split
      · simp [Memory.read]
      · simp only [Memory.read]
        rw [if_neg (by omega), ih]

/-- An address below every entry is not readable. -/
theorem Memory.read_below {m : Memory} {a : Nat} (h : ∀ c ∈ m, a < c.1) : m.read a = none := by
  induction m with
  | nil => rfl
  | cons d m ih =>
    have := h d (by simp)
    simp only [Memory.read]
    rw [if_neg (by omega)]
    exact ih (fun c hc => h c (by simp [hc]))

/-- A byte withdrawn by the caller is not readable. -/
theorem Memory.read_set_none {m : Memory} (h : m.wf) (a : Nat) : (m.set a none).read a = none := by
  induction m with
  | nil => rfl
  | cons d m ih =>
    obtain ⟨hd, hm⟩ := List.pairwise_cons.1 h
    unfold Memory.set
    split
    · refine Memory.read_below (fun c hc => ?_)
      rcases List.mem_cons.1 hc with rfl | hc
      · assumption
      · exact lt_trans ‹_› (hd c hc)
    · split
      · subst a
        exact Memory.read_below hd
      · simp only [Memory.read]
        rw [if_neg (by omega), ih hm]

theorem Memory.read_set_same {m : Memory} (h : m.wf) (a : Nat) (v : Option Byte) : (m.set a v).read a = v := by
  cases v with
  | none => exact Memory.read_set_none h a
  | some b => exact Memory.read_set_some m a b

/-- The caller's write leaves every other address alone. -/
theorem Memory.read_set_other (m : Memory) {a a' : Nat} (h : a' ≠ a) (v : Option Byte) :
    (m.set a v).read a' = m.read a' := by
  induction m with
  | nil =>
    cases v
    · rfl
    · simp only [Memory.set, Memory.read]
      rw [if_neg (by omega)]
  | cons d m ih =>
    unfold Memory.set
    split
    · cases v
      · rfl
      · simp only [Memory.read]
        rw [if_neg (by omega)]
    · split
      · subst a
        cases v <;> simp only [Memory.read] <;> rw [if_neg (by omega)]
        rw [if_neg (by omega)]
      · simp only [Memory.read, ih]

@[simp] theorem Memory.buffer_zero (m : Memory) (a : Nat) : m.buffer a 0 = some [] := rfl

/-- The first byte of a readable buffer, and the rest of it. -/
theorem Memory.buffer_succ {m : Memory} {a n : Nat} {bs : List Byte} :
    m.buffer a (n + 1) = some bs ↔ ∃ b bs', m.read a = some b ∧ m.buffer (a + 1) n = some bs' ∧ bs = b :: bs' := by
  simp only [Memory.buffer]
  constructor
  · intro h
    split at h
    · next b bs' hb hbs =>
      cases h
      exact ⟨b, bs', hb, hbs, rfl⟩
    · cases h
  · rintro ⟨b, bs', hb, hbs, rfl⟩
    simp [hb, hbs]

/-- A buffer has as many bytes as were asked for. -/
theorem Memory.buffer_length {m : Memory} {a n : Nat} {bs : List Byte} (h : m.buffer a n = some bs) : bs.length = n := by
  induction n generalizing a bs with
  | zero => cases h; rfl
  | succ n ih =>
    obtain ⟨b, bs', _, hbs, rfl⟩ := Memory.buffer_succ.1 h
    simp [ih hbs]

/-- Reading a buffer depends on its bytes only. -/
theorem Memory.buffer_congr {m m' : Memory} {a n : Nat} (h : ∀ x, a ≤ x → x < a + n → m'.read x = m.read x) :
    m'.buffer a n = m.buffer a n := by
  induction n generalizing a with
  | zero => rfl
  | succ n ih =>
    simp only [Memory.buffer]
    rw [h a (by omega) (by omega), ih (fun x _ _ => h x (by omega) (by omega))]

end Sys2Proof.Machine
end

