-- ==== Sys2Proof/Laws/PerInstr.lean ====
section
/-! SUPPORT. What holds of every instruction as syntax: the request that encodes it decodes to it (R54), one lemma per
constructor. -/

namespace Sys2Proof.Laws.RequestNames

/-- The request that `encode` makes of `i` names `i`. -/
def Statement (i : Instr) : Prop := decode (encode i) = .ok i

theorem crc16CcittLookupTable (index : Byte) : Statement (.crc16CcittLookupTable index) := by
  simp [Statement, encode, decode, variantBit, opField]

theorem crc16CcittByteUpdate (crc : Word) (byte : Byte) : Statement (.crc16CcittByteUpdate crc byte) := by
  simp [Statement, encode, decode, variantBit, opField]

theorem crc16CcittBufferUpdate (seed : Word) (addr len : BitVec Config.addrWidth) :
    Statement (.crc16CcittBufferUpdate seed addr len) := by
  simp [Statement, encode, decode, variantBit, opField]

theorem crc16CcittFalseLookupTable (index : Byte) : Statement (.crc16CcittFalseLookupTable index) := by
  simp [Statement, encode, decode, variantBit, opField]

theorem crc16CcittFalseByteUpdate (crc : Word) (byte : Byte) : Statement (.crc16CcittFalseByteUpdate crc byte) := by
  simp [Statement, encode, decode, variantBit, opField]

theorem crc16CcittFalseBufferUpdate (seed : Word) (addr len : BitVec Config.addrWidth) :
    Statement (.crc16CcittFalseBufferUpdate seed addr len) := by
  simp [Statement, encode, decode, variantBit, opField]

end Sys2Proof.Laws.RequestNames
end

