-- ==== Sys2Proof/Tests/Slice0.lean ====
section
/-! SUPPORT. Small tests, expected values from 95_test_vectors.md and the rules' own examples, and for each statement
with hypotheses a state and operands that meet them. -/

namespace Sys2Proof.Tests

open Sys2Proof Sys2Proof.Machine

/-! ## Well-formedness refuses -/

/-- X1 and X2. -/
theorem test_request_wf_refuses_reserved :
    (Request.mk 0b011 0 0 0 0 : Request 16).wf = false ∧ (Request.mk 0b111 0 0 0 0 : Request 16).wf = false := by decide
/-- X5, and the last request in range before it. -/
theorem test_request_wf_refuses_range :
    (Request.mk 0b010 0 0 0xFFFF 2 : Request 16).wf = false ∧ (Request.mk 0b110 0 0 0xFFFF 2 : Request 16).wf = false ∧
    (Request.mk 0b010 0 0 0xFFFF 1 : Request 16).wf = true ∧ (Request.mk 0b001 0 0 0xFFFF 2 : Request 16).wf = true := by
  decide

theorem two_le_space : 2 ≤ 2 ^ Config.addrWidth := by
  have := Nat.pow_le_pow_right (n := 2) (by omega) (show 1 ≤ Config.addrWidth from Nat.le_add_left 1 _)
  simpa using this

theorem small_toNat {n : Nat} (h : n < 2 ^ Config.addrWidth) : (BitVec.ofNat Config.addrWidth n).toNat = n :=
  (BitVec.toNat_ofNat n _).trans (Nat.mod_eq_of_lt h)

theorem one_toNat : (1 : BitVec Config.addrWidth).toNat = 1 := small_toNat two_le_space

theorem one_ne_zero_bits : (1 : BitVec Config.addrWidth) ≠ 0 := by
  intro h
  have := congrArg BitVec.toNat h
  rw [one_toNat] at this
  cases this

/-- Where two buffers as long as the space are longer than it, one such buffer at the last address is ill-formed. -/
theorem test_wf_refuses_range (h : 1 < Config.addrWidth) :
    (Instr.crc16CcittBufferUpdate 0 (BitVec.allOnes _) (BitVec.allOnes _)).wf = false ∧
    (Instr.crc16CcittFalseBufferUpdate 0 (BitVec.allOnes _) (BitVec.allOnes _)).wf = false := by
  have := Nat.pow_le_pow_right (n := 2) (by omega) h
  simp [Instr.wf]
  omega

/-! ## Decoding (R51, R54, R55; X1, X2, X8, X9), with anything in the fields a format ignores -/

/-- X8: `cmd = 0b000`, every unused field set. -/
theorem test_decode_ccitt_lookup (addr len : BitVec Config.addrWidth) :
    decode (Request.mk 0b000 0xDEAD 0x31 addr len) = .ok (.crc16CcittLookupTable 0x31) := by
  simp [decode, variantBit, opField]
/-- PR2's micro-steps: `0b001 / 200A / 32 / - / -`. -/
theorem test_decode_ccitt_byte (addr len : BitVec Config.addrWidth) :
    decode (Request.mk 0b001 0x200A 0x32 addr len) = .ok (.crc16CcittByteUpdate 0x200A 0x32) := by
  simp [decode, variantBit, opField]
/-- PR2: `0b010 / 0000 / - / 1000 / 0009`, here at any address and length. -/
theorem test_decode_ccitt_buffer (addr len : BitVec Config.addrWidth) :
    decode (Request.mk 0b010 0x0000 0xEE addr len) = .ok (.crc16CcittBufferUpdate 0x0000 addr len) := by
  simp [decode, variantBit, opField]
/-- PR4: `0b100 / - / A5 / - / -`. -/
theorem test_decode_false_lookup (addr len : BitVec Config.addrWidth) :
    decode (Request.mk 0b100 0xDEAD 0xA5 addr len) = .ok (.crc16CcittFalseLookupTable 0xA5) := by
  simp [decode, variantBit, opField]
/-- X9: `cmd = 0b101`, `addr` and `len` set. -/
theorem test_decode_false_byte (addr len : BitVec Config.addrWidth) :
    decode (Request.mk 0b101 0xFFFF 0x31 addr len) = .ok (.crc16CcittFalseByteUpdate 0xFFFF 0x31) := by
  simp [decode, variantBit, opField]
/-- PR3: `0b110 / 5349 / - / 1004 / 0005`, here at any address and length. -/
theorem test_decode_false_buffer (addr len : BitVec Config.addrWidth) :
    decode (Request.mk 0b110 0x5349 0xEE addr len) = .ok (.crc16CcittFalseBufferUpdate 0x5349 addr len) := by
  simp [decode, variantBit, opField]
/-- X1 and X2. -/
theorem test_decode_reserved (addr len : BitVec Config.addrWidth) :
    decode (Request.mk 0b011 0xFFFF 0x31 addr len) = .error .reservedCmd ∧
    decode (Request.mk 0b111 0xFFFF 0x31 addr len) = .error .reservedCmd := by
  simp [decode, variantBit, opField]

/-- `0b101 / 1234 / 56`, written out bit by bit from bit 0 of `cmd`; `addr` and `len` left out, so 0. -/
theorem test_decode_bits_false_byte :
    decodeBits
      [true, false, true,
       false, false, true, false, true, true, false, false, false, true, false, false, true, false, false, false,
       false, true, true, false, true, false, true, false] = .ok (.crc16CcittFalseByteUpdate 0x1234 0x56) := by rfl

/-- `0b010 / 0000 / - / 5 / 3` with 4-bit `addr` and `len`, written out bit by bit. -/
theorem test_bits_ccitt_buffer :
    Request.ofBits 4
      ([false, true, false] ++ List.replicate 16 false ++ List.replicate 8 true ++
       [true, false, true, false] ++ [true, true, false, false]) = Request.mk 0b010 0x0000 0xFF 5 3 := by decide

/-- `0b000 / FFFF / 31`, written out bit by bit. -/
theorem test_decode_bits_ccitt_lookup :
    decodeBits
      ([false, false, false] ++ List.replicate 16 true ++
       [true, false, false, false, true, true, false, false]) = .ok (.crc16CcittLookupTable 0x31) := by rfl

/-! ## The operations -/

/-- The accumulator or entry that a meaning answers. -/
def crcOf : Result → Option Word
  | .next s => s.lastCrc
  | _ => none

/-- T1 to T15. -/
theorem test_lookup_ccitt_rows :
    [0x00, 0x01, 0x02, 0x04, 0x08, 0x0F, 0x10, 0x20, 0x31, 0x40, 0x7F, 0x80, 0xA5, 0xFE, 0xFF].map tCcitt =
    [0x0000, 0x1189, 0x2312, 0x4624, 0x8C48, 0xF8F7, 0x1081, 0x2102, 0x200A, 0x4204, 0x8B70, 0x8408, 0xF2A7, 0x1EF1,
     0x0F78] := by decide

/-- T1 to T15. -/
theorem test_lookup_false_rows :
    [0x00, 0x01, 0x02, 0x04, 0x08, 0x0F, 0x10, 0x20, 0x31, 0x40, 0x7F, 0x80, 0xA5, 0xFE, 0xFF].map tFalse =
    [0x0000, 0x1021, 0x2042, 0x4084, 0x8108, 0xF1EF, 0x1231, 0x2462, 0x2672, 0x48C4, 0x8F78, 0x9188, 0xE54F, 0x0ED1,
     0x1EF0] := by decide

/-- T9. -/
theorem test_exec_ccitt_lookup : crcOf (exec (.crc16CcittLookupTable 0x31) State.reset) = some 0x200A := by decide
/-- T9. -/
theorem test_exec_false_lookup : crcOf (exec (.crc16CcittFalseLookupTable 0x31) State.reset) = some 0x2672 := by decide

/-- B1 to B16. -/
theorem test_byte_ccitt_rows :
    [byteUpdateCcitt 0x0000 0x00, byteUpdateCcitt 0x0000 0x01, byteUpdateCcitt 0x0000 0xFF, byteUpdateCcitt 0xFFFF 0x00,
     byteUpdateCcitt 0xFFFF 0xFF, byteUpdateCcitt 0xFFFF 0x31, byteUpdateCcitt 0x1234 0x56, byteUpdateCcitt 0xABCD 0xEF,
     byteUpdateCcitt 0x8000 0x00, byteUpdateCcitt 0x0001 0x00, byteUpdateCcitt 0x00FF 0xFF, byteUpdateCcitt 0xFF00 0xFF,
     byteUpdateCcitt 0x0100 0x00, byteUpdateCcitt 0x0080 0x80, byteUpdateCcitt 0x2189 0x89, byteUpdateCcitt 0x29B1 0x29] =
    [0x0000, 0x1189, 0x0F78, 0x0F87, 0x00FF, 0x2F8D, 0x4006, 0x02BB, 0x0080, 0x1189, 0x0000, 0x0F87, 0x0001, 0x0000,
     0x0021, 0x18E8] := by decide

/-- F1 to F16. -/
theorem test_byte_false_rows :
    [byteUpdateFalse 0x0000 0x00, byteUpdateFalse 0x0000 0x01, byteUpdateFalse 0x0000 0xFF, byteUpdateFalse 0xFFFF 0x00,
     byteUpdateFalse 0xFFFF 0xFF, byteUpdateFalse 0xFFFF 0x31, byteUpdateFalse 0x1234 0x56, byteUpdateFalse 0xABCD 0xEF,
     byteUpdateFalse 0x8000 0x00, byteUpdateFalse 0x0001 0x00, byteUpdateFalse 0x00FF 0xFF, byteUpdateFalse 0xFF00 0xFF,
     byteUpdateFalse 0x0100 0x00, byteUpdateFalse 0x0080 0x80, byteUpdateFalse 0x2189 0x89, byteUpdateFalse 0x29B1 0x29] =
    [0x0000, 0x1021, 0x1EF0, 0xE1F0, 0xFF00, 0xC782, 0x3C40, 0xC540, 0x9188, 0x0100, 0xE1F0, 0x0000, 0x1021, 0x1188,
     0xBDE2, 0xB100] := by decide

/-- B7. -/
theorem test_exec_ccitt_byte : crcOf (exec (.crc16CcittByteUpdate 0x1234 0x56) State.reset) = some 0x4006 := by decide
/-- F8. -/
theorem test_exec_false_byte : crcOf (exec (.crc16CcittFalseByteUpdate 0xABCD 0xEF) State.reset) = some 0xC540 := by decide

/-- The nine bytes of "123456789". -/
def digits : List Byte := [0x31, 0x32, 0x33, 0x34, 0x35, 0x36, 0x37, 0x38, 0x39]

/-- V3, every accumulator. -/
theorem test_buffer_ccitt_v3 :
    List.scanl byteUpdateCcitt 0x0000 digits =
      [0x0000, 0x200A, 0xBDEB, 0x5A78, 0x8832, 0x7437, 0x11FD, 0x6947, 0x8B19, 0x2189] := by decide
/-- V2, every accumulator. -/
theorem test_buffer_false_v2 :
    List.scanl byteUpdateFalse 0xFFFF digits =
      [0xFFFF, 0xC782, 0x3DBA, 0x5BCE, 0x5349, 0x4560, 0x2EF4, 0x7718, 0xA12B, 0x29B1] := by decide
/-- S9, V5 and V4 as re-attributed (C1). -/
theorem test_buffer_s9 :
    bufferUpdateCcitt 0xFFFF digits = 0x6F91 ∧ bufferUpdateFalse 0x0000 digits = 0x31C3 := by decide
/-- S10: every table entry once. -/
theorem test_buffer_s10 :
    bufferUpdateCcitt 0x0000 ((List.range 256).map (BitVec.ofNat 8)) = 0xD841 ∧
    bufferUpdateFalse 0xFFFF ((List.range 256).map (BitVec.ofNat 8)) = 0x3FBD := by decide +kernel

/-! ## Range (X3, X4, X5), with 16-bit addresses -/

/-- Whether a request was refused as out of range. -/
def isRange : Result → Bool
  | .refused .range => true
  | _ => false

/-- X5 and PR5 are refused; X3, X4 and X6 are not. -/
theorem test_range_edges :
    isRange (State.reset.accept .ccitt 0 (0xFFFF : BitVec 16) 2) = true ∧
    isRange (State.reset.accept .ccitt 0 (0xFFFC : BitVec 16) 5) = true ∧
    isRange (State.reset.accept .ccitt 0xFFFF (0xFFFF : BitVec 16) 0) = false ∧
    isRange (State.reset.accept .ccitt 0 (0xFFFF : BitVec 16) 1) = false ∧
    isRange (State.reset.accept .ccittFalse 0 (0 : BitVec 16) 0xFFFF) = false := by decide

/-! ## Single steps -/

/-- "123456789" at 0x1000. -/
def memory9 : Memory :=
  [(0x1000, 0x31), (0x1001, 0x32), (0x1002, 0x33), (0x1003, 0x34), (0x1004, 0x35), (0x1005, 0x36), (0x1006, 0x37),
   (0x1007, 0x38), (0x1008, 0x39)]

/-- A working state of PR2: `(0, acc, idx, 9, 1000)`. -/
def work9 (acc : Word) (idx : Nat) : Work :=
  { variant := .ccitt, acc, idx, len := 9, addr := 0x1000, ticket := 0, held := [] }

/-- The state after a step, if there is one. -/
def stateOf : Result → Option State
  | .next s => some s
  | _ => none

/-- Whether a step was stuck. -/
def isStuck : Result → Bool
  | .fault .stuck => true
  | _ => false

def inProgress9 (acc : Word) (idx : Nat) : State :=
  { State.reset with works := [work9 acc idx], mem := memory9, accepted := 1 }

/-- PR2: `(0, 5A78, 3, 9, 1000)` steps to `(0, 8832, 4, 9, 1000)`. -/
theorem test_step_pr2 : (stateOf (step (inProgress9 0x5A78 3))).map (fun t => t.works) = some [work9 0x8832 4] := by decide
/-- PR2: `(0, 2189, 9, 9, 1000)` is delivered. -/
theorem test_deliver_pr2 :
    (stateOf (step (inProgress9 0x2189 9))).map (fun t => (t.works, t.responses)) =
      some ([], [{ ticket := 0, crcOut := 0x2189 }]) := by decide
/-- X7: with byte 0x1004 not readable, `(0, 8832, 4, 9, 1000)` is stuck. -/
theorem test_stuck_x7 :
    isStuck (step { inProgress9 0x8832 4 with mem := memory9.set 0x1004 none }) = true := by decide
/-- X10: reset discards what is in progress, and delivers nothing. -/
theorem test_reset_x10 :
    (stateOf (step { inProgress9 0x8832 4 with inputs := [.reset], schedule := [0] })).map
      (fun t => (t.works, t.responses)) = some ([], []) := by decide

/-- X11: two buffer-updates in progress over the same bytes, the second of the other variant. -/
def inProgressTwo : State :=
  { State.reset with
    works := [work9 0x0000 0,
      { variant := .ccittFalse, acc := 0xFFFF, idx := 0, len := 9, addr := 0x1000, ticket := 1, held := [] }]
    mem := memory9
    accepted := 2 }

/-- X11: the schedule may let the second move first; the first is as it was. -/
theorem test_interleave_x11 :
    (stateOf (step { inProgressTwo with schedule := [1] })).map (fun t => t.works.map (fun w => (w.acc, w.idx))) =
      some [(0x0000, 0), (0xC782, 1)] := by decide

/-- A caller's write over the next byte keeps the byte overwritten (R39). -/
theorem test_overwritten :
    ((work9 0x5A78 3).overwritten 0x1003 (some 0x34)).held = [(0x1003, 0x34)] ∧
    ((work9 0x5A78 3).overwritten 0x1009 (some 0x34)).held = [] := by decide

/-- PR4, `r -> v1`: the first response is `crc_in`. -/
theorem test_linked_crc_pr4 :
    ({ State.reset with
        inputs := [.request [{ ticket := 0, slot := .crcIn }] (Request.mk 0b001 0 0x89 0 0)]
        responses := [{ ticket := 0, crcOut := 0x2189 }] } : State).nextTransition =
      some (.present (Request.mk 0b001 0x2189 0x89 0 0)) := by rfl

/-- PR4, the received bytes 0x89 and 0x21: the low and the high byte of the response 0x2189, as `byte_in`. -/
theorem test_linked_byte_pr4 :
    Request.put (.byteIn .low) 0x2189 (Request.mk 0b001 0x2189 0 0 0 : Request 16) = Request.mk 0b001 0x2189 0x89 0 0 ∧
    Request.put (.byteIn .high) 0x2189 (Request.mk 0b001 0x0021 0 0 0 : Request 16) = Request.mk 0b001 0x0021 0x21 0 0 := by
  decide

/-- R154: a caller's write of a byte of a response waits for it, and then writes that byte. -/
theorem test_linked_write :
    ({ State.reset with inputs := [.callerWrite [{ ticket := 0, slot := .written .high }] 7 none] } :
      State).nextTransition = none ∧
    ({ State.reset with
        inputs := [.callerWrite [{ ticket := 0, slot := .written .high }] 7 none]
        responses := [{ ticket := 0, crcOut := 0x2189 }] } : State).nextTransition =
      some (.callerWrite 7 (some 0x21)) := by decide

/-- A reserved request (X1) and a lookup behind it (T9). -/
def refusedThenLookup : Run :=
  Run.start { State.reset with
    inputs := [.request [] (Request.mk 0b011 0 0 0 0), .request [] (Request.mk 0b000 0 0x31 0 0)] }

/-- R157: the reserved request marks the run, which goes on to the lookup and is finished. -/
theorem test_run_goes_on :
    (refusedThenLookup.after 2).refused = [.reservedCmd] ∧
    (refusedThenLookup.after 2).state.responses = [{ ticket := 0, crcOut := 0x200A }] ∧
    (refusedThenLookup.after 2).finished = true := by decide

/-- R157, X10: a run whose request a reset discarded is not finished. -/
theorem test_run_discarded :
    let r := (Run.start { inProgress9 0x8832 4 with inputs := [.reset], schedule := [0] }).after 1
    r.state.works = [] ∧ r.finished = false := by decide

/-- A placed word runs as the first step after reset. -/
theorem test_placed_word_runs :
    (stateOf (step (State.reset.withFetchWord 8 0b110))).map (fun t => t.works.map Work.variant) =
      some [.ccittFalse] := by decide

/-! ## The hypotheses of the statements are met -/

/-- A state in which one request is presented and nothing else can move. -/
def presenting (r : Request Config.addrWidth) : State := { State.reset with inputs := [.request [] r] }

theorem witness_ReservedCommandIsRefused :
    (presenting (Request.mk 0b011 1 2 3 4)).nextTransition = some (.present (Request.mk 0b011 1 2 3 4)) ∧
    (presenting (Request.mk 0b111 1 2 3 4)).nextTransition = some (.present (Request.mk 0b111 1 2 3 4)) := ⟨rfl, rfl⟩

theorem witness_IgnoredFieldsHaveNoEffect :
    ∃ r r' : Request Config.addrWidth, r ≠ r' ∧ r'.cmd = r.cmd ∧
      (r.cmd.extractLsb' 0 2 = 0b00 ∨ r.cmd.extractLsb' 0 2 = 0b01 → r'.byteIn = r.byteIn) ∧
      (r.cmd.extractLsb' 0 2 = 0b01 ∨ r.cmd.extractLsb' 0 2 = 0b10 → r'.crcIn = r.crcIn) ∧
      (r.cmd.extractLsb' 0 2 = 0b10 → r'.addr = r.addr ∧ r'.len = r.len) :=
  ⟨Request.mk 0b110 5 0 7 9, Request.mk 0b110 5 1 7 9, by simp, rfl, by decide, fun _ => rfl, fun _ => ⟨rfl, rfl⟩⟩

theorem witness_StepRunsTheDecodedRequest :
    (presenting (Request.mk 0b001 1 2 3 4)).nextTransition = some (.present (Request.mk 0b001 1 2 3 4)) ∧
    decode (Request.mk 0b001 1 2 3 4) = .ok (.crc16CcittByteUpdate 1 2) ∧
    (presenting (Request.mk 0b001 1 2 3 4)).inputs = .request [] (Request.mk 0b001 1 2 3 4) :: [] ∧
    (presenting (Request.mk 0b001 1 2 3 4)).works = [] := ⟨rfl, rfl, rfl, rfl⟩

theorem witness_PlacedWordRunsNext : decodeTableWord 8 0b010 = some (.crc16CcittBufferUpdate 0 0 0) := by rfl

/-- A request or a write whose second link is missing, a link whose response exists, and a request with none left. -/
theorem witness_ChainedRequestWaitsForItsResponse :
    (∃ l ∈ [Link.mk 0 .crcIn, Link.mk 1 .addr], ∀ x ∈ (State.reset.respond 7).responses, x.ticket ≠ l.ticket) ∧
    (∃ x ∈ (State.reset.respond 7).responses, x.ticket = (Link.mk 0 .len).ticket) ∧
    (∀ x ∈ (State.reset.respond 7).responses, x.ticket = (Link.mk 0 .len).ticket → x.crcOut = 7) ∧
    (presenting (Request.mk 0b001 1 2 3 4)).inputs = .request [] (Request.mk 0b001 1 2 3 4) :: [] ∧
    (presenting (Request.mk 0b001 1 2 3 4)).nextTransition = some (.present (Request.mk 0b001 1 2 3 4)) ∧
    ({ State.reset with inputs := [.callerWrite [] 7 none] } : State).nextTransition = some (.callerWrite 7 none) :=
  ⟨by decide, by decide, by decide, rfl, rfl, rfl⟩

theorem witness_InstructionFrame :
    (∃ t, exec (.crc16CcittLookupTable 1) State.reset = .next t) ∧
    (∃ t, exec (.crc16CcittBufferUpdate 1 0 1) State.reset = .next t) :=
  ⟨⟨_, rfl⟩, ⟨_, State.accept_inRange (by have := two_le_space; simp; omega) _ _ _⟩⟩

/-- The longest buffer in range at address 1, that buffer at address 2, where there is such an address, and X5 with 16
bits (with `AW = 1` no buffer is out of range). -/
theorem witness_BufferUpdateNeedsItsRange :
    2 ^ 16 < (0xFFFF : BitVec 16).toNat + (2 : BitVec 16).toNat ∧
    (1 : BitVec Config.addrWidth).toNat + (BitVec.allOnes Config.addrWidth).toNat ≤ 2 ^ Config.addrWidth ∧
    (1 < Config.addrWidth → 2 ^ Config.addrWidth <
      (2 : BitVec Config.addrWidth).toNat + (BitVec.allOnes Config.addrWidth).toNat) := by
  have := two_le_space
  rw [one_toNat, BitVec.toNat_allOnes]
  refine ⟨by decide, by omega, fun h => ?_⟩
  have h4 := Nat.pow_le_pow_right (n := 2) (by omega) h
  rw [show (2 : BitVec Config.addrWidth).toNat = 2 from small_toNat (n := 2) (by omega)]
  omega

/-- One readable byte at address 0. -/
def oneByte : State := { State.reset with mem := [(0, 0x31)] }

/-- A buffer of one readable byte, and one of one byte that is not readable. -/
theorem witness_BufferUpdateDeliversTheFold :
    ((0 : BitVec Config.addrWidth).toNat + (1 : BitVec Config.addrWidth).toNat ≤ 2 ^ Config.addrWidth ∧ oneByte.quiet ∧
      oneByte.mem.buffer (0 : BitVec Config.addrWidth).toNat (1 : BitVec Config.addrWidth).toNat = some [0x31]) ∧
    (0 < (1 : BitVec Config.addrWidth).toNat ∧ State.reset.quiet ∧
      State.reset.mem.read ((0 : BitVec Config.addrWidth).toNat + 0) = none) := by
  have := two_le_space
  rw [one_toNat, BitVec.ofNat_eq_ofNat, BitVec.toNat_zero]
  exact ⟨⟨by omega, ⟨rfl, rfl⟩, by simp; rfl⟩, by decide, ⟨rfl, rfl⟩, rfl⟩

theorem witness_EmptyBufferReturnsTheSeed : State.reset.quiet := ⟨rfl, rfl⟩

theorem witness_BufferUpdateEqualsByteUpdates :
    (0 : BitVec Config.addrWidth).toNat + (1 : BitVec Config.addrWidth).toNat ≤ 2 ^ Config.addrWidth ∧ oneByte.quiet ∧
      oneByte.mem.buffer (0 : BitVec Config.addrWidth).toNat (1 : BitVec Config.addrWidth).toNat = some [0x31] :=
  witness_BufferUpdateDeliversTheFold.1

/-- A split with an empty first part, and one with an empty second part, whose address is any at all. -/
theorem witness_SplitBufferChains :
    ((1 : BitVec Config.addrWidth).toNat = (0 : BitVec Config.addrWidth).toNat + (1 : BitVec Config.addrWidth).toNat ∧
      (1 : BitVec Config.addrWidth) ≠ 0 ∧
      (0 : BitVec Config.addrWidth).toNat = (0 : BitVec Config.addrWidth).toNat + (0 : BitVec Config.addrWidth).toNat) ∧
    ((1 : BitVec Config.addrWidth).toNat = (1 : BitVec Config.addrWidth).toNat + (0 : BitVec Config.addrWidth).toNat ∧
      ¬ (0 : BitVec Config.addrWidth) ≠ 0) ∧
    (0 : BitVec Config.addrWidth).toNat + (1 : BitVec Config.addrWidth).toNat ≤ 2 ^ Config.addrWidth ∧ oneByte.quiet ∧
    oneByte.mem.buffer (0 : BitVec Config.addrWidth).toNat (1 : BitVec Config.addrWidth).toNat = some [0x31] :=
  ⟨⟨by simp, one_ne_zero_bits, by simp⟩, ⟨by simp, by simp⟩,
    witness_BufferUpdateDeliversTheFold.1⟩

theorem witness_ByteStepConsumesTheNextByte :
    (inProgress9 0x5A78 3).nextTransition = some (.byteStep 0 (work9 0x5A78 3) 0x34) ∧ (work9 0x5A78 3).held = [] :=
  ⟨rfl, rfl⟩

theorem witness_DeliveryAnswersTheAccumulator :
    (inProgress9 0x2189 9).nextTransition = some (.deliver 0 (work9 0x2189 9)) := by rfl

theorem witness_UnstableByteWasHeld :
    ∃ w b, w.held ≠ [] ∧
      ({ inProgress9 0 0 with works := [w] } : State).nextTransition = some (.byteStep 0 w b) :=
  ⟨{ work9 0x5A78 3 with held := [(0x1003, 0x99)] }, _, by decide, rfl⟩

/-- A stuck buffer-update beside one that moves. -/
def stuckBeside : State :=
  { State.reset with
    works := [work9 0x8832 4, { variant := .ccitt, acc := 5, idx := 0, len := 0, addr := 0, ticket := 1, held := [] }]
    accepted := 2 }

theorem witness_UnreadableByteIsStuck :
    (work9 0x8832 4 ∈ stuckBeside.works ∧ (work9 0x8832 4).idx < (work9 0x8832 4).len ∧
      stuckBeside.mem.read ((work9 0x8832 4).addr + (work9 0x8832 4).idx) = none ∧
      (∃ t, step stuckBeside = .next t) ∧ stuckBeside.nextTransition ≠ some .reset ∧
      ∀ a v, stuckBeside.nextTransition ≠ some (.callerWrite a v)) ∧
    (({ stuckBeside with works := [work9 0x8832 4] } : State).inputs = [] ∧
      ({ stuckBeside with works := [work9 0x8832 4] } : State).works ≠ [] ∧
      ∀ w ∈ ({ stuckBeside with works := [work9 0x8832 4] } : State).works,
        w.idx < w.len ∧ stuckBeside.mem.read (w.addr + w.idx) = none) := by
  have h : stuckBeside.nextTransition =
    some (.deliver 1 { variant := .ccitt, acc := 5, idx := 0, len := 0, addr := 0, ticket := 1, held := [] }) := rfl
  refine ⟨⟨by decide, by decide, rfl, ⟨_, rfl⟩, by simp [h], by simp [h]⟩, rfl, by decide, by decide⟩

/-- The first byte is the first unreadable one; and, where there are more than two addresses, so is the second. A buffer
out of range is in `witness_BufferUpdateNeedsItsRange`. -/
theorem witness_ChecksComeInOrder :
    ((0 : BitVec Config.addrWidth).toNat + (1 : BitVec Config.addrWidth).toNat ≤ 2 ^ Config.addrWidth ∧
      State.reset.quiet ∧ 0 < (1 : BitVec Config.addrWidth).toNat ∧
      State.reset.mem.buffer (0 : BitVec Config.addrWidth).toNat 0 = some [] ∧
      State.reset.mem.read ((0 : BitVec Config.addrWidth).toNat + 0) = none) ∧
    (1 < Config.addrWidth → 1 < (BitVec.allOnes Config.addrWidth).toNat ∧ oneByte.quiet ∧
      (0 : BitVec Config.addrWidth).toNat + (BitVec.allOnes Config.addrWidth).toNat ≤ 2 ^ Config.addrWidth ∧
      oneByte.mem.buffer (0 : BitVec Config.addrWidth).toNat 1 = some [0x31] ∧
      oneByte.mem.read ((0 : BitVec Config.addrWidth).toNat + 1) = none) := by
  have := two_le_space
  refine ⟨⟨witness_BufferUpdateDeliversTheFold.1.1, ⟨rfl, rfl⟩, by rw [one_toNat]; decide, rfl, rfl⟩, fun h => ?_⟩
  have h4 := Nat.pow_le_pow_right (n := 2) (by omega) h
  refine ⟨?_, ⟨rfl, rfl⟩, ?_, by simp; rfl, by simp; rfl⟩
  · simp
    omega
  · simp

/-- Two buffer-updates in progress and a caller's request: three transitions are enabled. -/
theorem witness_AnyEnabledTransitionCanMove :
    ({ inProgressTwo with inputs := [.reset] } : State).enabled.length = 3 := by decide

/-- A reserved request beside a buffer-update that owes its response, and a marked run. -/
theorem witness_RefusedRequestMarksTheRun :
    step { inProgress9 0x8B19 8 with inputs := [.request [] (Request.mk 0b011 0 0 0 0)], schedule := [0] } =
      .refused .reservedCmd ∧
    (State.Owes { inProgress9 0x8B19 8 with inputs := [.request [] (Request.mk 0b011 0 0 0 0)], schedule := [0] }
      0 0x2189) ∧
    (Run.mk State.reset [.reservedCmd] none).marked = true :=
  ⟨rfl, .inl ⟨work9 0x8B19 8, by decide, by decide, rfl, by decide, by decide⟩, rfl⟩

/-- A buffer-update in progress, a reserved request, one that uses the response still to come, and an empty buffer seeded
with the response to that one. -/
def runOfThree : State :=
  { inProgress9 0x8B19 8 with
    inputs := [.request [] (Request.mk 0b011 0 0 0 0),
      .request [{ ticket := 0, slot := .crcIn }] (Request.mk 0b001 0 0x89 0 0),
      .request [{ ticket := 1, slot := .crcIn }] (Request.mk 0b010 0 0 0 0)] }

theorem runOfThree_servable : Servable runOfThree.mem runOfThree.inputs runOfThree.accepted := by
  refine ⟨by simp, fun rs r' hf => ⟨fun i hd _ => ?_, fun _ => ⟨by simp; decide, fun rs r' hf => ⟨fun i hd _ => ?_, ?_⟩⟩⟩⟩
  · cases hf
    simp [decode, variantBit, opField] at hd
  · simp only [fill] at hf
    split at hf
    · cases hf
      simp [decode, variantBit, opField, Request.put] at hd
      subst hd
      refine ⟨trivial, by simp; decide, fun rs r' hf => ⟨fun i hd _ => ?_, fun _ => trivial⟩⟩
      simp only [fill] at hf
      split at hf
      · cases hf
        simp [decode, variantBit, opField, Request.put] at hd
        subst hd
        simp [bufferReadable, Servable]
      · cases hf
    · cases hf
  · intro h
    simp only [fill] at hf
    split at hf
    · cases hf
      simp [decode, variantBit, opField, Request.put, Instr.wf] at h
    · cases hf

theorem witness_RunOverReadableBuffersFinishes :
    runOfThree.NoneLost ∧ (∀ w ∈ runOfThree.works, w.idx ≤ w.len ∧ (w.rest runOfThree.mem).isSome = true) ∧
    Servable runOfThree.mem runOfThree.inputs runOfThree.accepted :=
  ⟨by unfold State.NoneLost; decide, by decide, runOfThree_servable⟩

/-- Parameters of which none is empty: a reserved request, a lookup, an update of its response, over nine bytes. -/
def someParameters : Parameters where
  mem := memory9
  inputs := [.request [] (Request.mk 0b111 0 0 0 0), .request [] (Request.mk 0b100 0 0x31 0 0),
    .request [{ ticket := 0, slot := .crcIn }] (Request.mk 0b101 0 0x32 0 0)]
  schedule := [2]

theorem witness_RunFromResetFinishesUnderAnyParameters : Servable someParameters.mem someParameters.inputs 0 := by
  refine ⟨by simp, fun rs r' hf => ⟨fun i hd _ => ?_, fun _ => ⟨by simp, fun rs r' hf => ⟨fun i hd _ => ?_, ?_⟩⟩⟩⟩
  · cases hf
    simp [decode, variantBit, opField] at hd
  · cases hf
    simp [decode, variantBit, opField] at hd
    subst hd
    refine ⟨trivial, by simp, fun rs r' hf => ⟨fun i hd _ => ?_, fun _ => trivial⟩⟩
    simp only [fill] at hf
    split at hf
    · cases hf
      simp [decode, variantBit, opField, Request.put] at hd
      subst hd
      exact ⟨trivial, trivial⟩
    · cases hf
  · intro h
    cases hf
    simp [decode, variantBit, opField, Instr.wf] at h

/-- A byte at the last address of the space. -/
theorem witness_ResetMeetsTheInvariant :
    Memory.wf [(0, 0x31), (2 ^ Config.addrWidth - 1, 0x32)] ∧
    ∀ c ∈ ([(0, 0x31), (2 ^ Config.addrWidth - 1, 0x32)] : Memory), c.1 < 2 ^ Config.addrWidth := by
  have := two_le_space
  constructor
  · exact List.pairwise_pair.2 (by dsimp only; omega)
  · intro c hc
    rcases List.mem_cons.1 hc with rfl | hc
    · dsimp only
      omega
    · rcases List.mem_singleton.1 hc with rfl
      dsimp only
      omega

/-- Two states of one block, over different memories and with different things waiting, in which one delivery moves. -/
theorem witness_BlockChangesByItsOwnState :
    ({ inProgress9 0x2189 9 with mem := [], inputs := [.reset], schedule := [1] } : State).toBlock =
      (inProgress9 0x2189 9).toBlock ∧
    (inProgress9 0x2189 9).nextTransition = some (.deliver 0 (work9 0x2189 9)) ∧
    ({ inProgress9 0x2189 9 with mem := [], inputs := [.reset], schedule := [1] } : State).nextTransition =
      some (.deliver 0 (work9 0x2189 9)) ∧
    (∃ t, step (inProgress9 0x2189 9) = .next t) := ⟨rfl, rfl, rfl, _, rfl⟩

theorem witness_QuietBlockWaits : State.reset.quiet := ⟨rfl, rfl⟩

theorem witness_StuckOnlyWhenNothingCanMove : step { stuckBeside with works := [work9 0x8832 4] } = .fault .stuck := by rfl

theorem witness_OwedResponseIsKept :
    (inProgress9 0x8B19 8).Owes 0 0x2189 ∧
    (∀ tr, (inProgress9 0x8B19 8).nextTransition = some tr → (inProgress9 0x8B19 8).Undisturbed 0 tr) ∧
    (∃ t, step (inProgress9 0x8B19 8) = .next t) := by
  have h : (inProgress9 0x8B19 8).nextTransition = some (.byteStep 0 (work9 0x8B19 8) 0x39) := rfl
  refine ⟨.inl ⟨work9 0x8B19 8, by decide, by decide, rfl, by decide, by decide⟩, fun tr ht => ?_, ⟨_, rfl⟩⟩
  rw [h] at ht
  cases ht
  exact ⟨by simp, by simp⟩

theorem witness_EveryRequestInProgressIsAnswered :
    inProgressTwo.inputs = [] ∧ inProgressTwo.works ≠ [] ∧
    (∀ w ∈ inProgressTwo.works, w.idx ≤ w.len ∧ (w.rest inProgressTwo.mem).isSome = true) ∧
    inProgressTwo.NoneLost := by
  unfold State.NoneLost
  decide

theorem witness_BlockNeverWritesMemory :
    (∃ t, step (inProgress9 0x5A78 3) = .next t) ∧
    ∀ a v, (inProgress9 0x5A78 3).nextTransition ≠ some (.callerWrite a v) := by
  have h : (inProgress9 0x5A78 3).nextTransition = some (.byteStep 0 (work9 0x5A78 3) 0x34) := rfl
  exact ⟨⟨_, rfl⟩, fun a v => by rw [h]; simp⟩

/-- Two readable bytes at address 0. -/
def twoBytes : State := { State.reset with mem := [(0, 0x31), (1, 0x32)] }

/-- The byte at address 1 in progress, and a reset that comes in between. -/
def resetComing : State :=
  { twoBytes with
    works := [{ variant := .ccitt, acc := 0, idx := 0, len := 1, addr := 1, ticket := 0, held := [] }]
    inputs := [.reset]
    accepted := 1
    schedule := [0] }

/-- Inside the space, at its last address, over a buffer in progress; and at the first address outside it. -/
theorem witness_CallerWriteIsReadBack :
    (({ twoBytes with inputs := [.callerWrite [] (2 ^ Config.addrWidth - 1) none] } : State).nextTransition =
        some (.callerWrite (2 ^ Config.addrWidth - 1) none) ∧
      twoBytes.mem.wf ∧ 2 ^ Config.addrWidth - 1 < 2 ^ Config.addrWidth) ∧
    (({ resetComing with inputs := [.callerWrite [] 1 (some 5)] } : State).nextTransition =
        some (.callerWrite 1 (some 5)) ∧ resetComing.mem.read 1 = some 0x32 ∧ 1 < 2 ^ Config.addrWidth) ∧
    ({ twoBytes with inputs := [.callerWrite [] (2 ^ Config.addrWidth) (some 5)] } : State).nextTransition =
      some (.callerWrite (2 ^ Config.addrWidth) (some 5)) := by
  have := two_le_space
  exact ⟨⟨rfl, by decide, by omega⟩, ⟨rfl, rfl, by omega⟩, rfl⟩

theorem resetComing_inv : resetComing.Inv where
  memCanonical := by decide
  memInSpace := by
    have := two_le_space
    intro c hc
    have : c.1 < 2 := by revert c; decide
    omega
  worksInBounds := by
    have := two_le_space
    intro w hw
    rcases List.mem_singleton.1 hw with rfl
    refine ⟨by decide, ?_, ?_, ?_⟩ <;> dsimp only <;> omega
  ticketsGiven := by decide
  ticketsOnce := by decide

theorem witness_ResetDiscardsWhatIsInProgress :
    resetComing.nextTransition = some .reset ∧ resetComing.Inv ∧ (∃ t, step resetComing = .next t) ∧
      resetComing.works ≠ [] := ⟨rfl, resetComing_inv, ⟨_, rfl⟩, by decide⟩

theorem witness_StepKeepsTheInvariant : resetComing.Inv ∧ ∃ t, step resetComing = .next t :=
  ⟨resetComing_inv, ⟨_, rfl⟩⟩

theorem witness_ResponsesOnlyGrow : ∃ t, step (inProgress9 0x2189 9) = .next t := ⟨_, rfl⟩

end Sys2Proof.Tests
end

section
/-! The buffer memory as the block sees it (20_memory.md): an instruction and a step leave it alone (R36), a
buffer-update at an unreadable byte neither moves nor is moved (R35), and one out of range is not accepted (R34). -/

namespace Sys2Proof.Machine

/-! ## The acceptance of a buffer-update, and what an instruction keeps -/

/-- Both variants of the buffer-update mean the acceptance of R115. -/
theorem exec_bufferUpdateInstr (v : Variant) (seed : Word) (addr len : BitVec Config.addrWidth) (s : State) :
    exec (bufferUpdateInstr v seed addr len) s = s.accept v seed addr len := by
  cases v <;> rfl

/-- R34 at every width: the acceptance goes by the range alone. -/
theorem State.accept_by_range {aw : Nat} (v : Variant) (seed : Word) (addr len : BitVec aw) (s : State) :
    (addr.toNat + len.toNat ≤ 2 ^ aw → ∃ t, s.accept v seed addr len = .next t) ∧
      (2 ^ aw < addr.toNat + len.toNat → s.accept v seed addr len = .refused .range) :=
  ⟨fun h => ⟨_, State.accept_inRange h v seed s⟩, fun h => State.accept_outOfRange h v seed s⟩

theorem exec_keeps_mem {i : Instr} {s t : State} (h : exec i s = .next t) : t.mem = s.mem := by
  obtain ⟨v, rfl⟩ | ⟨v, seed, addr, len, -, rfl⟩ := exec_next h
  · exact State.respond_mem s v
  · rfl

/-- An instruction adds at most a buffer-update to those in progress. -/
theorem exec_keeps_works {i : Instr} {s t : State} {w : Work} (h : exec i s = .next t) (hw : w ∈ s.works) :
    w ∈ t.works := by
  obtain ⟨v, rfl⟩ | ⟨v, seed, addr, len, -, rfl⟩ := exec_next h
  · simpa using hw
  · exact List.mem_append_left _ hw

/-! ## What a step keeps -/

theorem step_keeps_mem {s t : State} (h : step s = .next t)
    (hwrite : ∀ a v, s.nextTransition ≠ some (.callerWrite a v)) : t.mem = s.mem := by
  rcases step_next h with ⟨-, -, rfl⟩ | ⟨r, i, -, -, he⟩ | ⟨a, v, hn, -⟩ | ⟨-, rfl⟩ | ⟨k, w, b, -, rfl⟩ |
    ⟨k, w, -, rfl⟩
  · rfl
  · exact (exec_keeps_mem he).trans s.taken_mem
  · exact absurd hn (hwrite a v)
  · rfl
  · rfl
  · rfl

/-- What differs from the entry at place `k` stands at another place, so that a change at place `k` does not touch it. -/
theorem exists_getElem?_ne {α : Type} {l : List α} {x y : α} {k : Nat} (hx : x ∈ l) (hk : l[k]? = some y)
    (hxy : x ≠ y) : ∃ j, j ≠ k ∧ l[j]? = some x := by
  obtain ⟨j, hj⟩ := List.mem_iff_getElem?.1 hx
  refine ⟨j, ?_, hj⟩
  rintro rfl
  exact hxy (Option.some.inj (hj.symm.trans hk))

theorem State.mem_byteStep_works {s : State} {k : Nat} {w w' : Work} (b : Byte) (hw : w ∈ s.works)
    (hk : s.works[k]? = some w') (hne : w ≠ w') : w ∈ (s.byteStep k w' b).works := by
  obtain ⟨j, hjk, hj⟩ := exists_getElem?_ne hw hk hne
  rw [State.byteStep_works]
  exact List.mem_of_getElem? ((List.getElem?_set_ne hjk.symm).trans hj)

theorem State.mem_deliver_works {s : State} {k : Nat} {w w' : Work} (hw : w ∈ s.works)
    (hk : s.works[k]? = some w') (hne : w ≠ w') : w ∈ (s.deliver k w').works := by
  rw [State.deliver_works]
  exact List.mem_eraseIdx_iff_getElem?.2 (exists_getElem?_ne hw hk hne)

/-! ## A buffer-update at an unreadable byte -/

/-- R35: no byte is consumed where none can be read. -/
theorem Work.consumed_unreadable {m : Memory} {w : Work} (h : m.read w.nextAddr = none) (choice : Nat) :
    w.consumed choice m = none := by
  simp [Work.consumed, h]

/-- R35: with its next byte unreadable a buffer-update has neither of the transitions of R115. -/
theorem Work.enabled_unreadable {m : Memory} {w : Work} (hlt : w.idx < w.len) (h : m.read w.nextAddr = none)
    (choice k : Nat) : w.enabled choice m k = none := by
  simp [Work.enabled, hlt, hlt.ne, Work.consumed_unreadable h]

/-- Whatever moves, short of a reset or a caller's write, a buffer-update at an unreadable byte keeps its working state:
the one that moves is another. -/
theorem step_keeps_unreadable {s t : State} {w : Work} (hw : w ∈ s.works) (hlt : w.idx < w.len)
    (hr : s.mem.read w.nextAddr = none) (h : step s = .next t) (hreset : s.nextTransition ≠ some .reset)
    (hwrite : ∀ a v, s.nextTransition ≠ some (.callerWrite a v)) : w ∈ t.works := by
  rcases step_next h with ⟨-, -, rfl⟩ | ⟨r, i, -, -, he⟩ | ⟨a, v, hn, -⟩ | ⟨hn, -⟩ | ⟨k, w', b, hn, rfl⟩ |
    ⟨k, w', hn, rfl⟩
  · exact hw
  · exact exec_keeps_works he hw
  · exact absurd hn (hwrite a v)
  · exact absurd hn hreset
  · obtain ⟨hk, -, hb⟩ := State.byteStep_moves hn
    have hne : w ≠ w' := by
      rintro rfl
      simp [Work.consumed_unreadable hr] at hb
    exact State.mem_byteStep_works b hw hk hne
  · obtain ⟨hk, hdone⟩ := State.deliver_moves hn
    have hne : w ≠ w' := by
      rintro rfl
      exact hlt.ne hdone
    exact State.mem_deliver_works hw hk hne

/-! ## The machine with nothing to do -/

theorem State.enabledInput_of_no_inputs {s : State} (h : s.inputs = []) : s.enabledInput = [] := by
  simp [State.enabledInput, h]

theorem State.enabledWorks_unreadable {s : State}
    (h : ∀ w ∈ s.works, w.idx < w.len ∧ s.mem.read w.nextAddr = none) : s.enabledWorks = [] := by
  refine List.eq_nil_iff_forall_not_mem.2 fun t ht => ?_
  obtain ⟨k, w, hk, hw⟩ := State.mem_enabledWorks.1 ht
  obtain ⟨hlt, hr⟩ := h w (List.mem_of_getElem? hk)
  simp [Work.enabled_unreadable hlt hr] at hw

/-- With no transition enabled and a buffer-update in progress the machine is stuck. -/
theorem step_stuck {s : State} (h : s.enabled = []) (hw : s.works ≠ []) : step s = .fault .stuck := by
  simp [step, State.nextTransition_none.2 h, State.waitOrStuck, hw]

/-! ## The statements -/

/-- Settles O37: the transition that moves belongs to another buffer-update, and none moves when all are so. -/
theorem unreadableByteIsStuck : Obligations.UnreadableByteIsStuck := by
  refine ⟨fun s t w hw hlt hr => step_keeps_unreadable hw hlt hr, fun s hin hworks hall => ?_⟩
  refine step_stuck ?_ hworks
  rw [State.enabled, State.enabledInput_of_no_inputs hin, State.enabledWorks_unreadable hall, List.append_nil]

/-- Settles O47: every step but the caller's own write leaves the memory itself as it is. -/
theorem blockNeverWritesMemory : Obligations.BlockNeverWritesMemory := by
  intro s t h hwrite a
  rw [step_keeps_mem h hwrite]

/-- Settles O26: at the open width `exec` is the acceptance, and the acceptance decides by the range at every width. -/
theorem bufferUpdateNeedsItsRange : Obligations.BufferUpdateNeedsItsRange := by
  refine ⟨fun v seed addr len s => ?_, fun _ => State.accept_by_range⟩
  rw [exec_bufferUpdateInstr]
  exact State.accept_by_range v seed addr len s

end Sys2Proof.Machine
end

section
/-! The opcode map (30_encoding.md): what `decode` reads for each value of `cmd` (R54), and the refusal of the two
reserved values by `serve` and by the step that takes the request up (R55). -/

namespace Sys2Proof.Machine

/-! ## The opcode map -/

/-- The rows of R54's table, in its order: every value of `cmd` has one. -/
theorem cmd_cases (cmd : BitVec 3) :
    cmd = 0b000 ∨ cmd = 0b001 ∨ cmd = 0b010 ∨ cmd = 0b011 ∨ cmd = 0b100 ∨ cmd = 0b101 ∨ cmd = 0b110 ∨ cmd = 0b111 := by
  revert cmd
  decide

/-- Settles O1: in each row `cmd` is a numeral, whose two fields `variantBit` and `opField` select the operation. -/
theorem opcodeMapDecodes : Obligations.OpcodeMapDecodes := by
  intro r
  rcases cmd_cases r.cmd with h | h | h | h | h | h | h | h <;> simp [decode, variantBit, opField, h]

/-- R55, read off the map. -/
theorem decode_reserved {r : Request Config.addrWidth} (h : r.cmd = 0b011 ∨ r.cmd = 0b111) :
    decode r = .error .reservedCmd := by
  rw [opcodeMapDecodes r]
  rcases h with h | h <;> simp [h]

/-! ## Taking a request up -/

theorem serve_of_decode_error {r : Request Config.addrWidth} {e : DecodeError} (h : decode r = .error e) (s : State) :
    serve r s = .refused (refusalOf e) := by
  simp [serve, h]

theorem serve_reserved {r : Request Config.addrWidth} (h : r.cmd = 0b011 ∨ r.cmd = 0b111) (s : State) :
    serve r s = .refused .reservedCmd :=
  serve_of_decode_error (decode_reserved h) s

theorem step_present {r : Request Config.addrWidth} {s : State} (h : s.nextTransition = some (.present r)) :
    step s = serve r s.taken := by
  simp [step, h]

/-- Settles O2: the request decodes to nothing, so `serve` refuses it in every state, the one that the step hands it
included. -/
theorem reservedCommandIsRefused : Obligations.ReservedCommandIsRefused := by
  intro r s hcmd
  refine ⟨serve_reserved hcmd s, fun hnext => ?_⟩
  rw [step_present hnext]
  exact serve_reserved hcmd s.taken

end Sys2Proof.Machine
end

section
/-! The table lookups (40_table_lookup.md section 3): each is decoded from `cmd` and `byte_in` alone and answered at once,
in every state, with its table's entry (R74, R75). -/

namespace Sys2Proof.Machine

/-! ## An answer, field by field -/

/-- What an instruction answered at once changes: one more response, and the next ticket. -/
theorem State.respond_eq (s : State) (v : Word) :
    s.respond v = { s with
      responses := s.responses ++ [{ ticket := s.accepted, crcOut := v }], accepted := s.accepted + 1 } := rfl

/-! ## The lookups as requests and as instructions -/

/-- Format `T` (R52): of the operands only `byte_in` is read. -/
theorem decode_ccittLookup {r : Request Config.addrWidth} (h : r.cmd = 0b000) :
    decode r = .ok (.crc16CcittLookupTable r.byteIn) := by
  rw [opcodeMapDecodes r]
  simp [h]

theorem decode_falseLookup {r : Request Config.addrWidth} (h : r.cmd = 0b100) :
    decode r = .ok (.crc16CcittFalseLookupTable r.byteIn) := by
  rw [opcodeMapDecodes r]
  simp [h]

theorem exec_ccittLookup (index : Byte) (s : State) :
    exec (.crc16CcittLookupTable index) s = .next (s.respond (tCcitt index)) := rfl

theorem exec_falseLookup (index : Byte) (s : State) :
    exec (.crc16CcittFalseLookupTable index) s = .next (s.respond (tFalse index)) := rfl

/-! ## The statements -/

/-- Settles O18: the opcode map reads `byte_in`, and the meaning is an answer; the two entries are the printed ones. -/
theorem ccittLookupAnswersTheEntry : Obligations.CcittLookupAnswersTheEntry := by
  refine ⟨fun index crc addr len => decode_ccittLookup rfl, fun index s => ?_, by decide, by decide⟩
  rw [exec_ccittLookup, State.respond_eq]

/-- Settles O19: the opcode map reads `byte_in`, and the meaning is an answer; the two entries are the printed ones. -/
theorem falseLookupAnswersTheEntry : Obligations.FalseLookupAnswersTheEntry := by
  refine ⟨fun index crc addr len => decode_falseLookup rfl, fun index s => ?_, by decide, by decide⟩
  rw [exec_falseLookup, State.respond_eq]

end Sys2Proof.Machine
end

section
/-! The CCITT byte-update (41_byte_update.md section 2): what its two operands contribute to the result, and its answer
in every state (R91). -/

namespace Sys2Proof.Machine

/-! ## The operands -/

/-- The mask `0x00FF` of R91 keeps what the 8-bit index can hold. -/
theorem mask_setWidth (v : Word) : (v &&& 0x00FF).setWidth 8 = v.setWidth 8 := by
  have hmask : (0x00FF : Word).setWidth 8 = BitVec.allOnes 8 := by decide
  rw [BitVec.setWidth_and, hmask, BitVec.and_allOnes]

theorem lowByte_eq_setWidth (v : Word) : lowByte v = v.setWidth 8 :=
  (BitVec.setWidth_eq_extractLsb' (by decide)).symm

/-- The index of R91 as the formula writes it: "8 bits: crc_in[7:0] ^ byte_in". -/
theorem masked_xor_setWidth (crc : Word) (byte : Byte) :
    ((crc ^^^ byte.setWidth 16) &&& 0x00FF).setWidth 8 = lowByte crc ^^^ byte := by
  have hbyte : (byte.setWidth 16).setWidth 8 = byte := by
    rw [BitVec.setWidth_setWidth_of_le byte (by decide), BitVec.setWidth_eq]
  rw [mask_setWidth, BitVec.setWidth_xor, hbyte, lowByte_eq_setWidth]

theorem indexCcitt_eq (crc : Word) (byte : Byte) : indexCcitt crc byte = lowByte crc ^^^ byte := by
  rw [indexCcitt, lowByte_eq_setWidth, zext16, masked_xor_setWidth]

theorem highByte_xor (v w : Word) : highByte (v ^^^ w) = highByte v ^^^ highByte w := BitVec.extractLsb'_xor

theorem highByte_shiftedCcitt (crc : Word) : highByte (shiftedCcitt crc) = 0#8 := by
  refine BitVec.eq_of_getLsbD_eq fun i _ => ?_
  have hpast : crc.getLsbD (8 + (8 + i)) = false := BitVec.getLsbD_of_ge crc _ (by omega)
  simp [highByte, shiftedCcitt, hpast]

/-! ## The result -/

theorem tCcitt_zero : tCcitt 0#8 = 0#16 := by decide

theorem byteUpdateCcitt_eq (crc : Word) (byte : Byte) :
    byteUpdateCcitt crc byte = (crc >>> 8) ^^^ tCcitt (lowByte crc ^^^ byte) := by
  rw [byteUpdateCcitt, shiftedCcitt, indexCcitt_eq]

theorem byteUpdateCcitt_zero_crc (byte : Byte) : byteUpdateCcitt 0x0000 byte = tCcitt byte := by
  simp [byteUpdateCcitt_eq, lowByte]

theorem byteUpdateCcitt_lowByte (crc : Word) : byteUpdateCcitt crc (lowByte crc) = crc >>> 8 := by
  rw [byteUpdateCcitt_eq, BitVec.xor_self, tCcitt_zero, BitVec.xor_zero]

theorem highByte_byteUpdateCcitt (crc : Word) (byte : Byte) :
    highByte (byteUpdateCcitt crc byte) = highByte (tCcitt (lowByte crc ^^^ byte)) := by
  rw [byteUpdateCcitt, highByte_xor, highByte_shiftedCcitt, indexCcitt_eq, BitVec.zero_xor]

/-! ## The byte-update as a request and as an instruction -/

/-- Format `B` (R52): of the operands `crc_in` and `byte_in` are read. -/
theorem decode_ccittByteUpdate {r : Request Config.addrWidth} (h : r.cmd = 0b001) :
    decode r = .ok (.crc16CcittByteUpdate r.crcIn r.byteIn) := by
  rw [opcodeMapDecodes r]
  simp [h]

theorem exec_ccittByteUpdate (crc : Word) (byte : Byte) (s : State) :
    exec (.crc16CcittByteUpdate crc byte) s = .next (s.respond (byteUpdateCcitt crc byte)) := rfl

/-! ## The statement -/

/-- Settles O20: the meaning is an answer; the index takes the low byte of the accumulator, which `byte_in` cancels where
it equals it, and the shifted form has a zero high byte. -/
theorem ccittByteUpdateAnswers : Obligations.CcittByteUpdateAnswers := by
  refine ⟨fun crc byte addr len => decode_ccittByteUpdate rfl, fun crc byte s => ?_, masked_xor_setWidth,
    byteUpdateCcitt_zero_crc, byteUpdateCcitt_lowByte, highByte_byteUpdateCcitt, by decide, by decide, by decide⟩
  rw [exec_ccittByteUpdate, State.respond_eq, byteUpdateCcitt_eq, masked_xor_setWidth]

end Sys2Proof.Machine
end

section
/-! The buffer-updates with nothing else in progress (42_buffer_update.md): the fold they compute, the byte steps and the
delivery by which the machine computes it (R115), and what follows for one request (R110, R111, R112), for its
byte-updates (R113) and for a buffer split in two (R114). -/

namespace Sys2Proof.Machine

/-! ## The fold -/

/-- Both variants of the buffer-update are the fold of their own byte-update. -/
theorem bufferUpdate_eq_foldl (v : Variant) (seed : Word) (bs : List Byte) :
    bufferUpdate v seed bs = bs.foldl (byteUpdate v) seed := by
  cases v <;> rfl

theorem bufferUpdate_cons (v : Variant) (seed : Word) (b : Byte) (bs : List Byte) :
    bufferUpdate v seed (b :: bs) = bufferUpdate v (byteUpdate v seed b) bs := by
  simp only [bufferUpdate_eq_foldl, List.foldl_cons]

/-- The chaining property on byte sequences. -/
theorem bufferUpdate_append (v : Variant) (seed : Word) (bs cs : List Byte) :
    bufferUpdate v seed (bs ++ cs) = bufferUpdate v (bufferUpdate v seed bs) cs := by
  simp only [bufferUpdate_eq_foldl, List.foldl_append]

theorem byteUpdate_zero_zero (v : Variant) : byteUpdate v 0x0000 0x00 = 0x0000 := by
  cases v <;> decide

theorem bufferUpdate_replicate_zero (v : Variant) (n : Nat) :
    bufferUpdate v 0x0000 (List.replicate n 0x00) = 0x0000 := by
  induction n with
  | zero => cases v <;> rfl
  | succ n ih => rw [List.replicate_succ, bufferUpdate_cons, byteUpdate_zero_zero, ih]

/-! ## Parts of a buffer -/

theorem Memory.buffer_split {m : Memory} {a k n : Nat} {bs : List Byte} (h : m.buffer a (k + n) = some bs) :
    ∃ cs ds, m.buffer a k = some cs ∧ m.buffer (a + k) n = some ds ∧ bs = cs ++ ds := by
  induction k generalizing a bs with
  | zero => exact ⟨[], bs, rfl, by simpa using h, rfl⟩
  | succ k ih =>
    rw [Nat.add_right_comm] at h
    obtain ⟨b, bs', hb, hbs, rfl⟩ := Memory.buffer_succ.1 h
    obtain ⟨cs, ds, hcs, hds, rfl⟩ := ih hbs
    refine ⟨b :: cs, ds, Memory.buffer_succ.2 ⟨b, cs, hb, hcs, rfl⟩, ?_, rfl⟩
    rwa [Nat.add_assoc, Nat.add_comm 1 k] at hds

/-- Up to an unreadable byte there is a first one, and the bytes before it are readable. -/
theorem Memory.exists_first_unreadable {m : Memory} {a k : Nat} (h : m.read (a + k) = none) :
    ∃ j ≤ k, ∃ bs, m.buffer a j = some bs ∧ m.read (a + j) = none := by
  induction k generalizing a with
  | zero => exact ⟨0, le_rfl, [], rfl, h⟩
  | succ k ih =>
    cases hb : m.read a with
    | none => exact ⟨0, Nat.zero_le _, [], rfl, hb⟩
    | some b =>
      obtain ⟨j, hj, bs, hbs, hr⟩ := ih (a := a + 1) (by rwa [Nat.add_assoc, Nat.add_comm 1 k])
      refine ⟨j + 1, Nat.succ_le_succ hj, b :: bs, Memory.buffer_succ.2 ⟨b, bs, hb, hbs, rfl⟩, ?_⟩
      rwa [Nat.add_assoc, Nat.add_comm 1 j] at hr

/-! ## The transitions of R115 -/

/-- A working state that has consumed one byte more. -/
def Work.fed (w : Work) (b : Byte) : Work := { w with acc := byteUpdate w.variant w.acc b, idx := w.idx + 1 }

@[simp] theorem Work.fed_held (w : Work) (b : Byte) : (w.fed b).held = w.held := rfl
@[simp] theorem Work.fed_len (w : Work) (b : Byte) : (w.fed b).len = w.len := rfl
@[simp] theorem Work.fed_idx (w : Work) (b : Byte) : (w.fed b).idx = w.idx + 1 := rfl
@[simp] theorem Work.fed_addr (w : Work) (b : Byte) : (w.fed b).addr = w.addr := rfl
@[simp] theorem Work.fed_ticket (w : Work) (b : Byte) : (w.fed b).ticket = w.ticket := rfl
@[simp] theorem Work.fed_nextAddr (w : Work) (b : Byte) : (w.fed b).nextAddr = w.nextAddr + 1 := rfl

theorem State.byteStep_works_fed (s : State) (k : Nat) (w : Work) (b : Byte) :
    (s.byteStep k w b).works = s.works.set k (w.fed b) := rfl

/-- Consuming the bytes `bs` in order moves the accumulator by their fold. -/
theorem Work.foldl_fed (w : Work) (bs : List Byte) :
    bs.foldl Work.fed w = { w with acc := bufferUpdate w.variant w.acc bs, idx := w.idx + bs.length } := by
  induction bs generalizing w with
  | nil => simp [bufferUpdate_eq_foldl]
  | cons b bs ih =>
    rw [List.foldl_cons, ih, bufferUpdate_cons]
    simp [Work.fed, Nat.add_assoc, Nat.add_comm 1]

theorem step_byteStep {s : State} {k : Nat} {w : Work} {b : Byte} (h : s.nextTransition = some (.byteStep k w b)) :
    step s = .next (s.moved.byteStep k w b) := by
  simp [step, h]

theorem step_deliver {s : State} {k : Nat} {w : Work} (h : s.nextTransition = some (.deliver k w)) :
    step s = .next (s.moved.deliver k w) := by
  simp [step, h]

theorem Work.enabled_deliver {w : Work} (h : w.idx = w.len) (choice : Nat) (m : Memory) (k : Nat) :
    w.enabled choice m k = some (.deliver k w) := by
  simp [Work.enabled, h]

theorem Work.enabled_byteStep {choice : Nat} {m : Memory} {w : Work} {b : Byte} (hlt : w.idx < w.len)
    (h : w.consumed choice m = some b) (k : Nat) : w.enabled choice m k = some (.byteStep k w b) := by
  simp [Work.enabled, hlt.ne, hlt, h]

/-! ## One buffer-update alone -/

section Alone

variable {s : State} {w : Work}

/-- With nothing presented and only `w` in progress, what moves is the transition of `w`. -/
theorem State.nextTransition_alone (hin : s.inputs = []) (hw : s.works = [w]) :
    s.nextTransition = w.enabled (Config.heldByte s.turn) s.mem 0 := by
  have henabled : s.enabled = (w.enabled (Config.heldByte s.turn) s.mem 0).toList := by
    rw [State.enabled, State.enabledInput_of_no_inputs hin, State.enabledWorks, Block.enabled, hw]
    cases h : w.enabled (Config.heldByte s.turn) s.mem 0 <;> simp [h]
  rw [State.nextTransition, henabled]
  cases w.enabled (Config.heldByte s.turn) s.mem 0 <;> rfl

theorem step_alone_byteStep (hin : s.inputs = []) (hw : s.works = [w]) (hheld : w.held = []) (hlt : w.idx < w.len)
    {b : Byte} (hb : s.mem.read w.nextAddr = some b) : step s = .next (s.moved.byteStep 0 w b) := by
  refine step_byteStep ?_
  rw [State.nextTransition_alone hin hw]
  exact Work.enabled_byteStep hlt ((Work.consumed_stable hheld).trans hb) 0

theorem step_alone_deliver (hin : s.inputs = []) (hw : s.works = [w]) (hdone : w.idx = w.len) :
    step s = .next (s.moved.deliver 0 w) := by
  refine step_deliver ?_
  rw [State.nextTransition_alone hin hw, Work.enabled_deliver hdone]

theorem step_alone_stuck (hin : s.inputs = []) (hw : s.works = [w]) (hlt : w.idx < w.len)
    (hr : s.mem.read w.nextAddr = none) : step s = .fault .stuck := by
  refine step_stuck (State.nextTransition_none.1 ?_) (by simp [hw])
  rw [State.nextTransition_alone hin hw, Work.enabled_unreadable hlt hr]

/-- `s` after the byte steps by which `w`, alone in progress, consumes the bytes `bs`. -/
def State.fedAlone (s : State) (w : Work) (bs : List Byte) : State :=
  { s with works := [bs.foldl Work.fed w], schedule := s.schedule.drop bs.length, turn := s.turn + bs.length }

/-- Each readable byte takes one byte step, in ascending order of address. -/
theorem run_byteSteps {bs : List Byte} (hin : s.inputs = []) (hw : s.works = [w]) (hheld : w.held = [])
    (hlen : w.idx + bs.length ≤ w.len) (hbs : s.mem.buffer w.nextAddr bs.length = some bs) (n : Nat) :
    Host.Core.run core (bs.length + n) s = Host.Core.run core n (s.fedAlone w bs) := by
  induction bs generalizing s w with
  | nil =>
    have hs : s.fedAlone w [] = s := by simp [State.fedAlone, ← hw]
    rw [hs, List.length_nil, Nat.zero_add]
  | cons b bs ih =>
    rw [List.length_cons] at hlen hbs
    obtain ⟨b', bs', hb, hrest, heq⟩ := Memory.buffer_succ.1 hbs
    cases heq
    have hstep := step_alone_byteStep hin hw hheld (by omega) hb
    have hworks : (s.moved.byteStep 0 w b).works = [w.fed b] := by
      rw [State.byteStep_works_fed, State.moved_works, hw, List.set_cons_zero]
    have hfed : (s.moved.byteStep 0 w b).fedAlone (w.fed b) bs = s.fedAlone w (b :: bs) := by
      simp [State.fedAlone, State.byteStep, State.moved, Nat.add_assoc, Nat.add_comm 1]
    rw [List.length_cons, Nat.add_right_comm, run_next hstep, ← hfed]
    exact ih hin hworks hheld (by rw [Work.fed_idx, Work.fed_len]; omega) hrest

/-- R115: with all its bytes readable it is answered with their fold, after one byte step for each and the delivery. -/
theorem run_alone_delivers {bs : List Byte} (hin : s.inputs = []) (hw : s.works = [w]) (hheld : w.held = [])
    (hlen : w.idx + bs.length = w.len) (hbs : s.mem.buffer w.nextAddr bs.length = some bs) :
    Host.Core.run core (bs.length + 1) s = .next { s with
      works := []
      responses := s.responses ++ [{ ticket := w.ticket, crcOut := bufferUpdate w.variant w.acc bs }]
      schedule := s.schedule.drop (bs.length + 1)
      turn := s.turn + (bs.length + 1) } := by
  have hstep : step (s.fedAlone w bs) = .next ((s.fedAlone w bs).moved.deliver 0 (bs.foldl Work.fed w)) :=
    step_alone_deliver hin rfl (by rw [Work.foldl_fed]; exact hlen)
  rw [run_byteSteps hin hw hheld hlen.le hbs, run_next hstep, run_zero, Work.foldl_fed]
  simp [State.fedAlone, State.deliver, State.moved, Block.deliver, Nat.add_assoc]

/-- R35: over an unreadable byte it is stuck, once the bytes before the first such byte are consumed. -/
theorem run_alone_stuck {k n : Nat} (hin : s.inputs = []) (hw : s.works = [w]) (hheld : w.held = [])
    (hlen : w.idx + k < w.len) (hr : s.mem.read (w.nextAddr + k) = none) (hn : k < n) :
    Host.Core.run core n s = .fault .stuck := by
  obtain ⟨j, hj, bs, hbs, hrj⟩ := Memory.exists_first_unreadable hr
  obtain rfl := Memory.buffer_length hbs
  obtain ⟨m, rfl⟩ : ∃ m, n = bs.length + (m + 1) := ⟨n - bs.length - 1, by omega⟩
  have hstuck : step (s.fedAlone w bs) = .fault .stuck := by
    refine step_alone_stuck hin rfl ?_ ?_ <;> rw [Work.foldl_fed]
    · exact lt_of_le_of_lt (Nat.add_le_add_left hj _) hlen
    · rw [Work.nextAddr, ← Nat.add_assoc]
      exact hrj
  rw [run_byteSteps hin hw hheld (by omega) hbs, run_fault hstuck]

end Alone

/-! ## A request taken up with nothing else in progress -/

section Quiet

variable {s : State} {v : Variant} {seed : Word}

/-- `s` with one buffer-update more accepted (R115). -/
def State.begun (s : State) (v : Variant) (seed : Word) (addr len : Nat) : State :=
  { s with works := s.works ++ [Work.start v seed addr len s.accepted], accepted := s.accepted + 1 }

/-- `s` when, after `moves` moves, one request more was accepted and answered with `crc`. -/
def State.answeredAfter (s : State) (moves : Nat) (crc : Word) : State :=
  { s.respond crc with schedule := s.schedule.drop moves, turn := s.turn + moves }

@[simp] theorem State.answeredAfter_mem (s : State) (moves : Nat) (crc : Word) :
    (s.answeredAfter moves crc).mem = s.mem := rfl

theorem State.answeredAfter_quiet (h : s.quiet) (moves : Nat) (crc : Word) : (s.answeredAfter moves crc).quiet := h

theorem State.respond_lastCrc (s : State) (crc : Word) : (s.respond crc).lastCrc = some crc := by
  simp [State.lastCrc]

theorem State.answeredAfter_lastCrc (s : State) (moves : Nat) (crc : Word) :
    (s.answeredAfter moves crc).lastCrc = some crc :=
  s.respond_lastCrc crc

theorem exec_bufferUpdateInstr_inRange {addr len : BitVec Config.addrWidth}
    (h : addr.toNat + len.toNat ≤ 2 ^ Config.addrWidth) (v : Variant) (seed : Word) (s : State) :
    exec (bufferUpdateInstr v seed addr len) s = .next (s.begun v seed addr.toNat len.toNat) := by
  rw [exec_bufferUpdateInstr, State.accept_inRange h, State.begun]

theorem exec_bufferUpdateInstr_outOfRange {addr len : BitVec Config.addrWidth}
    (h : 2 ^ Config.addrWidth < addr.toNat + len.toNat) (v : Variant) (seed : Word) (s : State) :
    exec (bufferUpdateInstr v seed addr len) s = .refused .range := by
  rw [exec_bufferUpdateInstr, State.accept_outOfRange h]

theorem State.begun_works_of_quiet (hq : s.quiet) (addr len : Nat) :
    (s.begun v seed addr len).works = [Work.start v seed addr len s.accepted] := by
  simp [State.begun, hq.2]

theorem run_begun_delivers (hq : s.quiet) {addr len : Nat} {bs : List Byte} (hbs : s.mem.buffer addr len = some bs) :
    Host.Core.run core (len + 1) (s.begun v seed addr len) =
      .next (s.answeredAfter (len + 1) (bufferUpdate v seed bs)) := by
  obtain rfl := Memory.buffer_length hbs
  have hin : (s.begun v seed addr bs.length).inputs = [] := hq.1
  rw [run_alone_delivers hin (State.begun_works_of_quiet hq addr _) rfl (Nat.zero_add _) hbs]
  have hblock : s.toBlock = Block.reset := congrArg Block.mk hq.2
  simp [State.begun, State.answeredAfter, State.respond, Work.start, hblock, Block.reset]

theorem run_begun_stuck (hq : s.quiet) {addr len k : Nat} (hk : k < len) (hr : s.mem.read (addr + k) = none) :
    Host.Core.run core (len + 1) (s.begun v seed addr len) = .fault .stuck := by
  refine run_alone_stuck hq.1 (State.begun_works_of_quiet hq addr len) rfl ?_ hr (by omega)
  simpa [Work.start] using hk

/-- The whole run of a request in range, over a readable buffer and over one that is not. -/
theorem bufferUpdateInstr_runs {addr len : BitVec Config.addrWidth} (hr : addr.toNat + len.toNat ≤ 2 ^ Config.addrWidth)
    (hq : s.quiet) (v : Variant) (seed : Word) :
    (∀ bs, s.mem.buffer addr.toNat len.toNat = some bs →
      ∃ t, exec (bufferUpdateInstr v seed addr len) s = .next t ∧
        Host.Core.run core (len.toNat + 1) t = .next (s.answeredAfter (len.toNat + 1) (bufferUpdate v seed bs))) ∧
    (∀ k, k < len.toNat → s.mem.read (addr.toNat + k) = none →
      ∃ t, exec (bufferUpdateInstr v seed addr len) s = .next t ∧
        Host.Core.run core (len.toNat + 1) t = .fault .stuck) :=
  ⟨fun _ hbs => ⟨_, exec_bufferUpdateInstr_inRange hr v seed s, run_begun_delivers hq hbs⟩,
    fun _ hk hnone => ⟨_, exec_bufferUpdateInstr_inRange hr v seed s, run_begun_stuck hq hk hnone⟩⟩

/-- A buffer-update run alone over a readable buffer. -/
theorem bufferUpdateAlone_eq {addr len : BitVec Config.addrWidth} {bs : List Byte} (hq : s.quiet)
    (hr : addr.toNat + len.toNat ≤ 2 ^ Config.addrWidth) (hbs : s.mem.buffer addr.toNat len.toNat = some bs) :
    bufferUpdateAlone v seed addr len s = .next (s.answeredAfter (len.toNat + 1) (bufferUpdate v seed bs)) := by
  obtain ⟨t, hexec, hrun⟩ := (bufferUpdateInstr_runs hr hq v seed).1 bs hbs
  rw [bufferUpdateAlone, hexec]
  exact hrun

end Quiet

/-! ## Byte-updates threaded over the bytes -/

theorem exec_byteUpdateInstr (v : Variant) (crc : Word) (b : Byte) (s : State) :
    exec (byteUpdateInstr v crc b) s = .next (s.respond (byteUpdate v crc b)) := by
  cases v <;> rfl

theorem threadBytes_eq (v : Variant) (seed : Word) (bs : List Byte) (s : State) :
    ∃ u, threadBytes v seed bs s = some (bufferUpdate v seed bs, u) := by
  induction bs generalizing seed s with
  | nil => exact ⟨s, by rw [threadBytes, bufferUpdate_eq_foldl, List.foldl_nil]⟩
  | cons b bs ih =>
    obtain ⟨u, hu⟩ := ih (byteUpdate v seed b) (s.respond (byteUpdate v seed b))
    refine ⟨u, ?_⟩
    simp only [threadBytes, exec_byteUpdateInstr, State.respond_lastCrc]
    rw [hu, bufferUpdate_cons]

/-! ## The buffer-update as a request -/

/-- Format `S` (R52): of the operands `crc_in`, `addr` and `len` are read. -/
theorem decode_ccittBufferUpdate {r : Request Config.addrWidth} (h : r.cmd = 0b010) :
    decode r = .ok (.crc16CcittBufferUpdate r.crcIn r.addr r.len) := by
  rw [opcodeMapDecodes r]
  simp [h]

theorem decode_falseBufferUpdate {r : Request Config.addrWidth} (h : r.cmd = 0b110) :
    decode r = .ok (.crc16CcittFalseBufferUpdate r.crcIn r.addr r.len) := by
  rw [opcodeMapDecodes r]
  simp [h]

/-! ## The statements -/

/-- Settles O28: the acceptance goes by the range, and the run that follows is that of one buffer-update alone. -/
theorem ccittBufferUpdateDeliversTheFold : Obligations.CcittBufferUpdateDeliversTheFold := by
  refine ⟨fun seed byte addr len => decode_ccittBufferUpdate rfl,
    fun seed addr len s h => exec_bufferUpdateInstr_outOfRange h .ccitt seed s,
    fun seed addr len s h => exec_bufferUpdateInstr_inRange h .ccitt seed s,
    fun seed addr len s h hq => bufferUpdateInstr_runs h hq .ccitt seed, bufferUpdate_replicate_zero .ccitt, by decide⟩

/-- Settles O29: the acceptance goes by the range, and the run that follows is that of one buffer-update alone. -/
theorem falseBufferUpdateDeliversTheFold : Obligations.FalseBufferUpdateDeliversTheFold := by
  refine ⟨fun seed byte addr len => decode_falseBufferUpdate rfl,
    fun seed addr len s h => exec_bufferUpdateInstr_outOfRange h .ccittFalse seed s,
    fun seed addr len s h => exec_bufferUpdateInstr_inRange h .ccittFalse seed s,
    fun seed addr len s h hq => bufferUpdateInstr_runs h hq .ccittFalse seed, bufferUpdate_replicate_zero .ccittFalse,
    by decide⟩

/-- Settles O30: the empty buffer is readable at every address, and its fold is the seed. -/
theorem emptyBufferReturnsTheSeed : Obligations.EmptyBufferReturnsTheSeed := by
  intro v seed addr s hq
  have hr : addr.toNat + (0 : BitVec Config.addrWidth).toNat ≤ 2 ^ Config.addrWidth := by simpa using addr.isLt.le
  have hbs : s.mem.buffer addr.toNat (0 : BitVec Config.addrWidth).toNat = some [] := by simp
  rw [bufferUpdateAlone_eq hq hr hbs, bufferUpdate_eq_foldl]
  simp [State.answeredAfter, State.respond]

/-- Settles O31: both sides end with the fold of the byte-updates. -/
theorem bufferUpdateEqualsByteUpdates : Obligations.BufferUpdateEqualsByteUpdates := by
  intro v seed addr len bs s hr hq hbs
  obtain ⟨u, hu⟩ := threadBytes_eq v seed bs s
  exact ⟨_, u, _, bufferUpdateAlone_eq hq hr hbs, hu, State.answeredAfter_lastCrc _ _ _, rfl⟩

/-- Settles O32: the two parts of the buffer are readable, and the fold over the second continues that over the first. -/
theorem splitBufferChains : Obligations.SplitBufferChains := by
  intro v seed addr mid len k n bs s hlen hmid hr hq hbs
  obtain ⟨cs, ds, hcs, hds, rfl⟩ := Memory.buffer_split (hlen ▸ hbs)
  have hsecond : mid.toNat + n.toNat ≤ 2 ^ Config.addrWidth ∧ s.mem.buffer mid.toNat n.toNat = some ds := by
    by_cases hn : n = 0
    · subst hn
      exact ⟨by simpa using mid.isLt.le, by simpa using hds⟩
    · rw [hmid hn]
      exact ⟨by omega, hds⟩
  refine ⟨_, _, _, bufferUpdate v seed cs, bufferUpdate v seed (cs ++ ds),
    bufferUpdateAlone_eq hq (by omega) hcs, State.answeredAfter_lastCrc _ _ _,
    bufferUpdateAlone_eq (State.answeredAfter_quiet hq _ _) hsecond.1 hsecond.2, ?_,
    bufferUpdateAlone_eq hq hr hbs, State.answeredAfter_lastCrc _ _ _⟩
  rw [bufferUpdate_append]
  exact State.answeredAfter_lastCrc _ _ _

end Sys2Proof.Machine
end

section
/-! Any number of buffer-updates in progress and nothing more presented (20_memory.md section 6, 42_buffer_update.md
section 3): over readable bytes one of them always moves, each of their moves does one part of the work left and loses
nothing, and the run ends with every request answered (R116). -/

namespace Sys2Proof.Machine

/-! ## What a buffer-update owes, byte by byte -/

/-- With bytes left to consume and all of them readable, the next one is readable and so are those after it. -/
theorem Work.rest_of_lt {m : Memory} {w : Work} {bs : List Byte} (hlt : w.idx < w.len) (h : w.rest m = some bs) :
    ∃ b bs', m.read w.nextAddr = some b ∧ (∀ c, (w.fed c).rest m = some bs') ∧ bs = b :: bs' := by
  have hlen : w.len - w.idx = (w.len - (w.idx + 1)) + 1 := by omega
  rw [Work.rest, hlen] at h
  obtain ⟨b, bs', hb, hbs, rfl⟩ := Memory.buffer_succ.1 h
  exact ⟨b, bs', hb, fun c => hbs, rfl⟩

/-- A byte step over an undisturbed buffer leaves the response that is owed as it is. -/
theorem Work.result_fed {choice : Nat} {m : Memory} {w : Work} {b : Byte} {v : Word} (hheld : w.held = [])
    (hlt : w.idx < w.len) (hb : w.consumed choice m = some b) (h : w.result m = some v) :
    (w.fed b).result m = some v := by
  obtain ⟨bs, hbs, rfl⟩ := Option.map_eq_some_iff.1 h
  obtain ⟨b', bs', hb', hrest, rfl⟩ := Work.rest_of_lt hlt hbs
  obtain rfl : b' = b := Option.some.inj (hb'.symm.trans ((Work.consumed_stable hheld).symm.trans hb))
  rw [Work.result, hrest b', bufferUpdate_cons]
  rfl

/-- With all its bytes consumed a buffer-update owes its accumulator. -/
theorem Work.result_of_done {m : Memory} {w : Work} (h : w.idx = w.len) : w.result m = some w.acc := by
  simp [Work.result, Work.rest, h, bufferUpdate_eq_foldl]

/-! ## The block's own moves -/

/-- `t` is `s` after one transition of a buffer-update in progress (R115). -/
inductive State.BlockMove (s : State) : State → Prop
  | byteStep {k : Nat} {w : Work} {b : Byte} (hk : s.works[k]? = some w) (hlt : w.idx < w.len)
      (hb : w.consumed (Config.heldByte s.turn) s.mem = some b) : State.BlockMove s (s.moved.byteStep k w b)
  | deliver {k : Nat} {w : Work} (hk : s.works[k]? = some w) (hdone : w.idx = w.len) :
      State.BlockMove s (s.moved.deliver k w)

/-- Every buffer-update in progress has all the bytes left to it readable. -/
def State.Readable (s : State) : Prop := ∀ w ∈ s.works, w.idx ≤ w.len ∧ (w.rest s.mem).isSome = true

theorem Work.enabled_of_readable {m : Memory} {w : Work} (hle : w.idx ≤ w.len) (h : (w.rest m).isSome = true)
    (choice k : Nat) : ∃ t, w.enabled choice m k = some t := by
  obtain ⟨bs, hbs⟩ := Option.isSome_iff_exists.1 h
  rcases hle.eq_or_lt with hdone | hlt
  · exact ⟨_, Work.enabled_deliver hdone choice m k⟩
  · obtain ⟨b, _, hb, _⟩ := Work.rest_of_lt hlt hbs
    exact ⟨_, Work.enabled_byteStep hlt (by rw [Work.consumed, hb]; rfl) k⟩

theorem State.nextTransition_of_readable {s : State} (hw : s.works ≠ []) (h : s.Readable) :
    ∃ tr, s.nextTransition = some tr := by
  obtain ⟨w, hmem⟩ := List.exists_mem_of_ne_nil _ hw
  obtain ⟨k, hk⟩ := List.mem_iff_getElem?.1 hmem
  obtain ⟨hle, hrest⟩ := h w hmem
  obtain ⟨t, ht⟩ := Work.enabled_of_readable hle hrest (Config.heldByte s.turn) k
  have hin : t ∈ s.enabled := List.mem_append_right _ (State.mem_enabledWorks.2 ⟨k, w, hk, ht⟩)
  refine Option.ne_none_iff_exists'.1 fun hnone => ?_
  rw [State.nextTransition_none.1 hnone] at hin
  cases hin

/-- With nothing presented, what moves is a transition of a buffer-update in progress. -/
theorem step_blockMove {s : State} {tr : Transition} (hin : s.inputs = []) (h : s.nextTransition = some tr) :
    ∃ t, step s = .next t ∧ s.BlockMove t := by
  have hmem := State.nextTransition_mem h
  rw [State.enabled, State.enabledInput_of_no_inputs hin, List.nil_append] at hmem
  obtain ⟨k, w, hk, hw⟩ := State.mem_enabledWorks.1 hmem
  obtain ⟨hdone, rfl⟩ | ⟨hlt, b, hb, rfl⟩ := Work.enabled_cases hw
  · exact ⟨_, step_deliver h, .deliver hk hdone⟩
  · exact ⟨_, step_byteStep h, .byteStep hk hlt hb⟩

/-! ## What a move of the block keeps -/

section Move

variable {s t : State}

/-- The working state at place `k` stands between those before it and those after it, which stay. -/
theorem State.works_split {k : Nat} {w : Work} (hk : s.works[k]? = some w) :
    ∃ l₁ l₂, s.works = l₁ ++ w :: l₂ ∧ (∀ b, (s.moved.byteStep k w b).works = l₁ ++ w.fed b :: l₂) ∧
      (s.moved.deliver k w).works = l₁ ++ l₂ := by
  obtain ⟨hlt, rfl⟩ := List.getElem?_eq_some_iff.1 hk
  refine ⟨s.works.take k, s.works.drop (k + 1), ?_, fun b => ?_, List.eraseIdx_eq_take_drop_succ s.works k⟩
  · rw [List.getElem_cons_drop, List.take_append_drop]
  · rw [State.byteStep_works_fed, State.moved_works, List.set_eq_take_append_cons_drop, if_pos hlt]

theorem State.BlockMove.turn_eq (h : s.BlockMove t) : t.turn = s.turn + 1 := by
  cases h <;> rfl

/-- Each move does one of the moves that are left to do. -/
theorem State.BlockMove.workload_eq (h : s.BlockMove t) : s.workload = t.workload + 1 := by
  cases h with
  | byteStep hk hlt hb =>
    obtain ⟨l₁, l₂, hs, hset, -⟩ := State.works_split hk
    simp only [State.workload, hs, hset, List.map_append, List.map_cons, List.sum_append, List.sum_cons, Work.fed_len,
      Work.fed_idx]
    omega
  | deliver hk hdone =>
    obtain ⟨l₁, l₂, hs, -, herase⟩ := State.works_split hk
    simp only [State.workload, hs, herase, List.map_append, List.map_cons, List.sum_append, List.sum_cons, hdone]
    omega

theorem State.BlockMove.readable (h : s.BlockMove t) (hr : s.Readable) : t.Readable := by
  cases h with
  | byteStep hk hlt hb =>
    intro w' hw'
    rcases List.mem_or_eq_of_mem_set hw' with hw' | rfl
    · exact hr w' hw'
    · obtain ⟨bs, hbs⟩ := Option.isSome_iff_exists.1 (hr _ (List.mem_of_getElem? hk)).2
      obtain ⟨_, _, -, hrest, -⟩ := Work.rest_of_lt hlt hbs
      exact ⟨hlt, Option.isSome_iff_exists.2 ⟨_, hrest _⟩⟩
  | deliver hk hdone => exact fun w' hw' => hr w' (List.mem_of_mem_eraseIdx hw')

/-- R50: what is in progress stays so or is answered. -/
theorem State.BlockMove.tickets_subset (h : s.BlockMove t) : s.tickets ⊆ t.tickets := by
  intro ticket hticket
  cases h with
  | byteStep hk hlt hb =>
    obtain ⟨l₁, l₂, hs, hset, -⟩ := State.works_split hk
    simpa only [State.tickets, hs, hset, State.byteStep_responses, State.moved_responses, List.map_append, List.map_cons,
      Work.fed_ticket] using hticket
  | deliver hk hdone =>
    obtain ⟨l₁, l₂, hs, -, herase⟩ := State.works_split hk
    simp only [State.tickets, hs, herase, State.deliver_responses, State.moved_responses, List.map_append, List.map_cons,
      List.mem_append, List.mem_cons] at hticket ⊢
    tauto

theorem State.BlockMove.owes (h : s.BlockMove t) {ticket : Nat} {v : Word} (ho : s.Owes ticket v) : t.Owes ticket v := by
  cases h with
  | @byteStep k w b hk hlt hb =>
    obtain ⟨w', hw', rfl, hheld, hle, hres⟩ | hdone := ho
    · by_cases hww : w' = w
      · subst hww
        obtain ⟨l₁, l₂, -, hset, -⟩ := State.works_split hk
        have hmem : w'.fed b ∈ (s.moved.byteStep k w' b).works := by
          rw [hset]
          exact List.mem_append_right _ List.mem_cons_self
        exact .inl ⟨w'.fed b, hmem, rfl, hheld, hlt, Work.result_fed hheld hlt hb hres⟩
      · exact .inl ⟨w', State.mem_byteStep_works b hw' hk hww, rfl, hheld, hle, hres⟩
    · exact .inr hdone
  | @deliver k w hk hdone =>
    obtain ⟨w', hw', rfl, hheld, hle, hres⟩ | hmem := ho
    · by_cases hww : w' = w
      · subst hww
        rw [Work.result_of_done hdone] at hres
        cases hres
        exact .inr (List.mem_append_right _ (List.mem_singleton_self _))
      · exact .inl ⟨w', State.mem_deliver_works hw' hk hww, rfl, hheld, hle, hres⟩
    · exact .inr (List.mem_append_left _ hmem)

/-- What the block's own moves keep from `s` to `t`. -/
structure State.Continues (s t : State) : Prop where
  inputs : t.inputs = s.inputs
  noneLost : s.NoneLost → t.NoneLost
  owes : ∀ {ticket v}, s.Owes ticket v → t.Owes ticket v

theorem State.Continues.refl (s : State) : s.Continues s := ⟨rfl, id, id⟩

theorem State.Continues.trans {u : State} (h : s.Continues t) (h' : t.Continues u) : s.Continues u :=
  ⟨h'.inputs.trans h.inputs, h'.noneLost ∘ h.noneLost, h'.owes ∘ h.owes⟩

theorem State.BlockMove.continues (h : s.BlockMove t) : s.Continues t where
  inputs := by cases h <;> rfl
  noneLost hn ticket hlt := h.tickets_subset (hn ticket (by cases h <;> exact hlt))
  owes := h.owes

end Move

/-! ## The run -/

theorem State.workload_eq_zero {s : State} : s.workload = 0 ↔ s.works = [] := by
  cases h : s.works <;> simp [State.workload, h]

/-- R116: with nothing presented and every buffer readable, the moves that are left to do end all that is in progress. -/
theorem run_workload {s : State} (hin : s.inputs = []) (hr : s.Readable) :
    ∃ t, Host.Core.run core s.workload s = .next t ∧ t.turn = s.turn + s.workload ∧ t.works = [] ∧
      s.Continues t := by
  induction hn : s.workload generalizing s with
  | zero => exact ⟨s, run_zero s, rfl, State.workload_eq_zero.1 hn, .refl s⟩
  | succ n ih =>
    have hworks : s.works ≠ [] := fun h => by simp [State.workload_eq_zero.2 h] at hn
    obtain ⟨tr, htr⟩ := State.nextTransition_of_readable hworks hr
    obtain ⟨u, hstep, hmove⟩ := step_blockMove hin htr
    have hu : u.workload = n := by rw [hmove.workload_eq] at hn; omega
    obtain ⟨t, hrun, hturn, ht, hcont⟩ := ih (hmove.continues.inputs.trans hin) (hmove.readable hr) hu
    refine ⟨t, (run_next hstep n).trans hrun, ?_, ht, hmove.continues.trans hcont⟩
    rw [hturn, hmove.turn_eq, Nat.add_assoc, Nat.add_comm 1]

/-- With nothing in progress, what is owed was delivered. -/
theorem State.Owes.delivered {s : State} {ticket : Nat} {v : Word} (h : s.Owes ticket v) (hw : s.works = []) :
    { ticket := ticket, crcOut := v } ∈ s.responses := by
  obtain ⟨w, hmem, -⟩ | hmem := h
  · simp [hw] at hmem
  · exact hmem

/-- R157: with nothing waiting, nothing in progress and no request lost, the run is finished. -/
theorem State.finished_of_noneLost {s : State} (hin : s.inputs = []) (hw : s.works = []) (h : s.NoneLost) :
    s.finished = true := by
  have hall : ∀ ticket < s.accepted, s.answered ticket = true := by
    intro ticket hlt
    simpa [State.tickets, hw, State.answered] using h ticket hlt
  simpa [State.finished, hin, hw] using hall

/-! ## The statement -/

/-- Settles O42: the moves made are those of `workload`, and what each request owes is kept to the end, when nothing is in
progress. -/
theorem everyRequestInProgressIsAnswered : Obligations.EveryRequestInProgressIsAnswered := by
  intro s hin hr
  obtain ⟨t, hrun, hturn, ht, hcont⟩ := run_workload hin hr
  refine ⟨t, hrun, hturn, ht, fun hn => ?_, fun w hw hheld bs hbs => ?_⟩
  · exact State.finished_of_noneLost (hcont.inputs.trans hin) ht (hcont.noneLost hn)
  · have howes : s.Owes w.ticket (bufferUpdate w.variant w.acc bs) :=
      .inl ⟨w, hw, rfl, hheld, (hr w hw).1, by rw [Work.result, Work.rest, hbs, Option.map_some]⟩
    exact (hcont.owes howes).delivered ht

end Sys2Proof.Machine
end

section
/-! The order of the checks (60_exceptions.md, R134): the reserved codes, the range, and then the bytes one by one, so that
a buffer-update alone in progress consumes the bytes before its first unreadable one and is stuck there. -/

namespace Sys2Proof.Machine

/-- A buffer-update that has consumed the bytes `bs` since its acceptance (R115). -/
theorem Work.foldl_fed_start (v : Variant) (seed : Word) (addr len ticket : Nat) (bs : List Byte) :
    bs.foldl Work.fed (Work.start v seed addr len ticket) =
      { variant := v, acc := bufferUpdate v seed bs, idx := bs.length, len, addr, ticket, held := [] } := by
  simp [Work.foldl_fed, Work.start]

/-- The byte steps up to the first unreadable byte are all made, and none after them. -/
theorem run_alone_first_unreadable {s : State} {w : Work} {bs : List Byte} (hin : s.inputs = []) (hw : s.works = [w])
    (hheld : w.held = []) (hlen : w.idx + bs.length < w.len) (hbs : s.mem.buffer w.nextAddr bs.length = some bs)
    (hr : s.mem.read (w.nextAddr + bs.length) = none) :
    Host.Core.run core bs.length s = .next (s.fedAlone w bs) ∧ step (s.fedAlone w bs) = .fault .stuck := by
  have hnext : (bs.foldl Work.fed w).nextAddr = w.nextAddr + bs.length := by
    rw [Work.foldl_fed, Work.nextAddr, Work.nextAddr, Nat.add_assoc]
  refine ⟨run_byteSteps hin hw hheld hlen.le hbs 0, step_alone_stuck hin rfl ?_ (hnext ▸ hr)⟩
  rw [Work.foldl_fed]
  exact hlen

/-- Settles O38: a reserved code decodes to nothing, the acceptance goes by the range alone, and the buffer-update then
in progress alone makes its byte steps up to the unreadable byte. -/
theorem checksComeInOrder : Obligations.ChecksComeInOrder := by
  refine ⟨fun cmd crc byte addr len s hcmd => serve_reserved hcmd s,
    fun v seed addr len s h => exec_bufferUpdateInstr_outOfRange h v seed s,
    fun v seed addr len k bs s hrange hq hk hbs hr => ?_⟩
  obtain rfl := Memory.buffer_length hbs
  have hlen : (Work.start v seed addr.toNat len.toNat s.accepted).idx + bs.length < len.toNat := by
    rwa [Work.start, Nat.zero_add]
  obtain ⟨hrun, hstuck⟩ := run_alone_first_unreadable (s := s.begun v seed addr.toNat len.toNat) hq.1
    (State.begun_works_of_quiet hq addr.toNat len.toNat) rfl hlen hbs hr
  exact ⟨_, _, exec_bufferUpdateInstr_inRange hrange v seed s, hrun,
    congrArg List.singleton (Work.foldl_fed_start v seed addr.toNat len.toNat s.accepted bs), rfl, hstuck⟩

end Sys2Proof.Machine
end

section
/-! The packed request (30_encoding.md): a request laid out as bits is read back field by field, so that what is decoded
from the bits of an encoded instruction is the instruction; and which of the fields decoding reads (R52). The layout is the
model's choice (log entry 8). -/

namespace Sys2Proof.Machine

/-! ## The layout -/

theorem ofNat_toNat_mod {n : Nat} (v : BitVec n) : BitVec.ofNat n (v.toNat % 2 ^ n) = v := by
  rw [Nat.mod_eq_of_lt v.isLt, BitVec.ofNat_toNat, BitVec.setWidth_eq]

/-- Each field is read back by its width, since the fields before it take the bits of their own widths. -/
theorem ofBits_toBits {aw : Nat} (r : Request aw) : Request.ofBits aw r.toBits = r := by
  simp only [Request.ofBits, Request.toBits, drop_field, natOfBits_take_field, natOfBits_take_last, ofNat_toNat_mod]

theorem decode_encode (i : Instr) : decode (encode i) = .ok i := by
  cases i with
  | crc16CcittLookupTable index => exact Laws.RequestNames.crc16CcittLookupTable index
  | crc16CcittByteUpdate crc byte => exact Laws.RequestNames.crc16CcittByteUpdate crc byte
  | crc16CcittBufferUpdate seed addr len => exact Laws.RequestNames.crc16CcittBufferUpdate seed addr len
  | crc16CcittFalseLookupTable index => exact Laws.RequestNames.crc16CcittFalseLookupTable index
  | crc16CcittFalseByteUpdate crc byte => exact Laws.RequestNames.crc16CcittFalseByteUpdate crc byte
  | crc16CcittFalseBufferUpdate seed addr len => exact Laws.RequestNames.crc16CcittFalseBufferUpdate seed addr len

/-! ## The statements -/

/-- Settles O3: the fields of the layout are read back one by one. -/
theorem packedRequestKeepsEveryField : Obligations.PackedRequestKeepsEveryField :=
  fun _ r => ⟨ofBits_toBits r, r.toBits_length⟩

/-- Settles O4: the bits give back the request that encodes the instruction, and that request names the instruction. -/
theorem decodeOfEncodeIsIdentity : Obligations.DecodeOfEncodeIsIdentity := by
  intro i
  rw [decodeBits, encodeBits, ofBits_toBits, decode_encode]

/-- Settles O5: in each row of the opcode map the operands read are among those on which the two requests agree. -/
theorem ignoredFieldsHaveNoEffect : Obligations.IgnoredFieldsHaveNoEffect := by
  intro r r' s hcmd hbyte hcrc hbuffer
  have hdecode : decode r' = decode r := by
    rw [opcodeMapDecodes r', opcodeMapDecodes r, hcmd]
    rcases cmd_cases r.cmd with h | h | h | h | h | h | h | h <;> simp_all
  rw [serve, serve, hdecode]

/-- Settles O6: the three bits of `cmd` are read, and every operand bit is 0. -/
theorem tableWordsDecode : Obligations.TableWordsDecode :=
  ⟨rfl, rfl, rfl, rfl, rfl, rfl, rfl, rfl⟩

end Sys2Proof.Machine
end

section
/-! The meaning of an instruction (R4, R13, R56): one that is answered at once, or a buffer-update that is accepted or out of
range; what follows from that for all six, and the values of the CCITT-FALSE byte-update (R92). -/

namespace Sys2Proof.Machine

/-! ## The two kinds of instruction -/

/-- What an instruction of format T or B answers, whatever the state; `none` for a buffer-update (R52). -/
def answerOf : Instr → Option Word
  | .crc16CcittLookupTable index => some (tCcitt index)
  | .crc16CcittByteUpdate crc byte => some (byteUpdateCcitt crc byte)
  | .crc16CcittBufferUpdate _ _ _ => none
  | .crc16CcittFalseLookupTable index => some (tFalse index)
  | .crc16CcittFalseByteUpdate crc byte => some (byteUpdateFalse crc byte)
  | .crc16CcittFalseBufferUpdate _ _ _ => none

theorem exec_of_answer {i : Instr} {v : Word} (h : answerOf i = some v) (s : State) : exec i s = .next (s.respond v) := by
  cases i <;> cases h <;> rfl

theorem answer_or_bufferUpdate (i : Instr) :
    (∃ v, answerOf i = some v) ∨ ∃ v seed addr len, i = bufferUpdateInstr v seed addr len := by
  cases i with
  | crc16CcittLookupTable index => exact .inl ⟨_, rfl⟩
  | crc16CcittByteUpdate crc byte => exact .inl ⟨_, rfl⟩
  | crc16CcittBufferUpdate seed addr len => exact .inr ⟨.ccitt, seed, addr, len, rfl⟩
  | crc16CcittFalseLookupTable index => exact .inl ⟨_, rfl⟩
  | crc16CcittFalseByteUpdate crc byte => exact .inl ⟨_, rfl⟩
  | crc16CcittFalseBufferUpdate seed addr len => exact .inr ⟨.ccittFalse, seed, addr, len, rfl⟩

@[simp] theorem answerOf_bufferUpdateInstr (v : Variant) (seed : Word) (addr len : BitVec Config.addrWidth) :
    answerOf (bufferUpdateInstr v seed addr len) = none := by
  cases v <;> rfl

/-- The buffer-updates are the instructions of the two constructors that the statements name. -/
theorem isBufferUpdate_iff {i : Instr} {seed : Word} {addr len : BitVec Config.addrWidth} :
    (i = .crc16CcittBufferUpdate seed addr len ∨ i = .crc16CcittFalseBufferUpdate seed addr len) ↔
      ∃ v, i = bufferUpdateInstr v seed addr len :=
  ⟨fun h => h.elim (⟨.ccitt, ·⟩) (⟨.ccittFalse, ·⟩), fun ⟨v, h⟩ => by cases v <;> simp [h, bufferUpdateInstr]⟩

theorem bufferUpdateInstr_inj {v v' : Variant} {seed seed' : Word} {addr addr' len len' : BitVec Config.addrWidth}
    (h : bufferUpdateInstr v seed addr len = bufferUpdateInstr v' seed' addr' len') : addr = addr' ∧ len = len' := by
  cases v <;> cases v' <;> cases h <;> exact ⟨rfl, rfl⟩

/-! ## Well-formedness -/

theorem wf_of_answer {i : Instr} {v : Word} (h : answerOf i = some v) : i.wf = true := by
  cases i <;> cases h <;> rfl

theorem wf_bufferUpdateInstr (v : Variant) (seed : Word) (addr len : BitVec Config.addrWidth) :
    (bufferUpdateInstr v seed addr len).wf = true ↔ addr.toNat + len.toNat ≤ 2 ^ Config.addrWidth := by
  cases v <;> simp [bufferUpdateInstr, Instr.wf]

/-- R34, R133: the one reason for which an instruction is not completed. -/
theorem exec_of_not_wf {i : Instr} (h : i.wf = false) (s : State) : exec i s = .refused .range := by
  obtain ⟨v, hv⟩ | ⟨v, seed, addr, len, rfl⟩ := answer_or_bufferUpdate i
  · simp [wf_of_answer hv] at h
  · have hrange : ¬ addr.toNat + len.toNat ≤ 2 ^ Config.addrWidth := by simp [← wf_bufferUpdateInstr v seed, h]
    exact exec_bufferUpdateInstr_outOfRange (by omega) v seed s

theorem exec_of_wf {i : Instr} (h : i.wf = true) (s : State) : ∃ t, exec i s = .next t := by
  obtain ⟨v, hv⟩ | ⟨v, seed, addr, len, rfl⟩ := answer_or_bufferUpdate i
  · exact ⟨_, exec_of_answer hv s⟩
  · exact ⟨_, exec_bufferUpdateInstr_inRange ((wf_bufferUpdateInstr v seed addr len).1 h) v seed s⟩

theorem wf_iff_exec_next (i : Instr) (s : State) : i.wf = true ↔ ∃ t, exec i s = .next t := by
  refine ⟨(exec_of_wf · s), fun ⟨t, ht⟩ => ?_⟩
  by_contra h
  simp [exec_of_not_wf (Bool.eq_false_iff.2 h) s] at ht

theorem wf_iff_inRange (i : Instr) :
    (∀ seed addr len, (i = .crc16CcittBufferUpdate seed addr len ∨ i = .crc16CcittFalseBufferUpdate seed addr len) →
      addr.toNat + len.toNat ≤ 2 ^ Config.addrWidth) ↔ i.wf = true := by
  simp only [isBufferUpdate_iff]
  obtain ⟨v, hv⟩ | ⟨v, seed, addr, len, rfl⟩ := answer_or_bufferUpdate i
  · refine iff_of_true (fun seed addr len ⟨v', h⟩ => ?_) (wf_of_answer hv)
    simp [h] at hv
  · rw [wf_bufferUpdateInstr]
    refine ⟨fun h => h seed addr len ⟨v, rfl⟩, fun h seed' addr' len' ⟨v', heq⟩ => ?_⟩
    obtain ⟨rfl, rfl⟩ := bufferUpdateInstr_inj heq
    exact h

/-- R56: in each row of the opcode map the request asks what its instruction does. -/
theorem request_wf_iff (r : Request Config.addrWidth) : r.wf = true ↔ ∃ i, decode r = .ok i ∧ i.wf = true := by
  rw [opcodeMapDecodes r]
  rcases cmd_cases r.cmd with h | h | h | h | h | h | h | h <;> simp [Request.wf, Request.op, Instr.wf, h]

/-! ## The CCITT-FALSE byte-update -/

theorem lowByte_shiftRight (v : Word) : lowByte (v >>> 8) = highByte v :=
  BitVec.eq_of_getLsbD_eq fun i hi => by simp [lowByte, highByte]

theorem indexFalse_eq (crc : Word) (byte : Byte) : indexFalse crc byte = highByte crc ^^^ byte := by
  rw [indexFalse, lowByte_shiftRight]

theorem byteUpdateFalse_eq (crc : Word) (byte : Byte) :
    byteUpdateFalse crc byte = (crc <<< 8) ^^^ tFalse (highByte crc ^^^ byte) := by
  rw [byteUpdateFalse, shiftedFalse, indexFalse_eq]

theorem tFalse_zero : tFalse 0#8 = 0#16 := by decide

theorem byteUpdateFalse_zero_crc (byte : Byte) : byteUpdateFalse 0x0000 byte = tFalse byte := by
  simp [byteUpdateFalse_eq, highByte]

theorem byteUpdateFalse_highByte (crc : Word) : byteUpdateFalse crc (highByte crc) = crc <<< 8 := by
  rw [byteUpdateFalse_eq, BitVec.xor_self, tFalse_zero, BitVec.xor_zero]

/-- The truncation that 41_byte_update.md section 2 infers. -/
theorem shiftLeft_eq_ofNat (crc : Word) : crc <<< 8 = BitVec.ofNat 16 (crc.toNat * 256 % 65536) := by
  refine BitVec.eq_of_toNat_eq ?_
  rw [BitVec.toNat_shiftLeft, BitVec.toNat_ofNat, Nat.shiftLeft_eq]
  omega

/-! ## The statements -/

/-- Settles O12: an answer adds a response, an acceptance a working state, and neither touches anything else. -/
theorem instructionFrame : Obligations.InstructionFrame := by
  intro i s t h
  simp only [isBufferUpdate_iff, ← not_or]
  obtain ⟨v, hv⟩ | ⟨v, seed, addr, len, rfl⟩ := answer_or_bufferUpdate i
  · obtain rfl : s.respond v = t := by simpa [exec_of_answer hv] using h
    refine ⟨rfl, rfl, rfl, fun _ => rfl, fun seed addr len ⟨v', heq⟩ => ?_, fun _ => ⟨_, rfl, rfl⟩⟩
    simp [heq] at hv
  · rw [exec_bufferUpdateInstr] at h
    obtain ⟨-, rfl⟩ := State.accept_next h
    exact ⟨rfl, rfl, rfl, fun _ => rfl, fun _ _ _ _ => ⟨_, rfl, rfl⟩, fun hno => absurd ⟨v, rfl⟩ (hno seed addr len)⟩

/-- Settles O13: by kind of instruction, and for a buffer-update by its range, which is a matter of its operands. -/
theorem effectDependsOnOperandsOnly : Obligations.EffectDependsOnOperandsOnly := by
  intro i
  obtain ⟨v, hv⟩ | ⟨v, seed, addr, len, rfl⟩ := answer_or_bufferUpdate i
  · exact .inl ⟨v, exec_of_answer hv⟩
  · by_cases h : addr.toNat + len.toNat ≤ 2 ^ Config.addrWidth
    · exact .inr (.inl ⟨v, seed, addr, len, exec_bufferUpdateInstr_inRange h v seed⟩)
    · exact .inr (.inr (exec_bufferUpdateInstr_outOfRange (by omega) v seed))

/-- Settles O21: the meaning is an answer; the index takes the high byte of the accumulator, which `byte_in` cancels where
it equals it. -/
theorem falseByteUpdateAnswers : Obligations.FalseByteUpdateAnswers := by
  refine ⟨fun crc byte addr len => ?_, fun crc byte s => ?_, byteUpdateFalse_zero_crc, byteUpdateFalse_highByte,
    by decide, by decide, by decide⟩
  · rw [opcodeMapDecodes]
    simp
  · rw [exec_of_answer (v := byteUpdateFalse crc byte) rfl, State.respond_eq, byteUpdateFalse_eq, shiftLeft_eq_ofNat,
      highByte]

/-- Settles O27: an instruction out of range is refused, every other one completes, and a request is its instruction. -/
theorem wellFormedIsWhatCompletes : Obligations.WellFormedIsWhatCompletes :=
  ⟨wf_iff_exec_next, wf_iff_inRange, request_wf_iff⟩

end Sys2Proof.Machine
end

section
/-! Which transition moves, and the step it makes: what callers have enabled and how it waits for responses (R154), the
choice among what is enabled (R38 (d)), and one equation of `step` for each transition. -/

namespace Sys2Proof.Machine

/-! ## What callers have enabled -/

section Input

variable {s : State} {links : List Link} {rest : List Event}

theorem State.enabledInput_request {r : Request Config.addrWidth} (h : s.inputs = .request links r :: rest) :
    s.enabledInput = ((fill Request.put s.responses links r).map Transition.present).toList := by
  rw [State.enabledInput, h]
  cases hf : fill Request.put s.responses links r <;> simp [hf]

theorem State.enabledInput_callerWrite {a : Nat} {v : Option Byte} (h : s.inputs = .callerWrite links a v :: rest) :
    s.enabledInput =
      ((fill putWrite s.responses links (a, v)).map fun w => Transition.callerWrite w.1 w.2).toList := by
  rw [State.enabledInput, h]
  cases hf : fill putWrite s.responses links (a, v) <;> simp [hf]

end Input

/-- The callers' transitions are none of those of the buffer-updates in progress. -/
theorem State.mem_enabledWorks_cases {s : State} {t : Transition} (h : t ∈ s.enabledWorks) :
    (∃ k w b, t = .byteStep k w b) ∨ ∃ k w, t = .deliver k w := by
  obtain ⟨k, w, -, ht⟩ := State.mem_enabledWorks.1 h
  obtain ⟨-, rfl⟩ | ⟨-, b, -, rfl⟩ := Work.enabled_cases ht
  · exact .inr ⟨k, w, rfl⟩
  · exact .inl ⟨k, w, b, rfl⟩

theorem State.present_mem_enabledInput {s : State} {r : Request Config.addrWidth}
    (h : s.nextTransition = some (.present r)) : .present r ∈ s.enabledInput :=
  (List.mem_append.1 (State.nextTransition_mem h)).resolve_right fun h => by
    simpa using State.mem_enabledWorks_cases h

theorem State.callerWrite_mem_enabledInput {s : State} {a : Nat} {v : Option Byte}
    (h : s.nextTransition = some (.callerWrite a v)) : .callerWrite a v ∈ s.enabledInput :=
  (List.mem_append.1 (State.nextTransition_mem h)).resolve_right fun h => by
    simpa using State.mem_enabledWorks_cases h

/-- The link whose response `v` exists is filled with it, whichever of the responses to its ticket is found. -/
theorem fill_cons_of_response {α : Type} {put : Slot → Word → α → α} {rs : List Response} {l : Link} {v : Word}
    (hex : ∃ x ∈ rs, x.ticket = l.ticket) (hall : ∀ x ∈ rs, x.ticket = l.ticket → x.crcOut = v) (links : List Link)
    (x : α) : fill put rs (l :: links) x = fill put rs links (put l.slot v x) := by
  obtain ⟨y, hy, hyt⟩ := hex
  have hfound : (rs.find? fun r => r.ticket == l.ticket).isSome = true :=
    List.find?_isSome.2 ⟨y, hy, by simpa using hyt⟩
  obtain ⟨z, hz⟩ := Option.isSome_iff_exists.1 hfound
  have hcrc : z.crcOut = v := hall z (List.mem_of_find?_eq_some hz) (by simpa using List.find?_some hz)
  rw [fill, responseTo, hz, Option.map_some, hcrc]

/-! ## The choice -/

theorem State.nextTransition_of_enabled {s : State} {t : Transition} {ts : List Transition} (h : s.enabled = t :: ts) :
    s.nextTransition = some (choose s.choice t ts) := by
  rw [State.nextTransition, h]

/-- With nothing else in progress, or by choice 0, the callers' transition moves. -/
theorem State.nextTransition_of_input {s : State} {t : Transition} (h : s.enabledInput = [t])
    (hfirst : s.works = [] ∨ s.schedule.head? = some 0) : s.nextTransition = some t := by
  have henabled : s.enabled = t :: s.enabledWorks := by rw [State.enabled, h, List.singleton_append]
  rw [State.nextTransition_of_enabled henabled]
  rcases hfirst with hw | hc
  · rw [State.enabledWorks_unreadable (by simp [hw]), choose_nil]
  · rw [State.choice, List.headD_eq_head?_getD, hc, Option.getD_some, choose_zero]

theorem State.nextTransition_of_request {s : State} {r : Request Config.addrWidth} {rest : List Event}
    (h : s.inputs = .request [] r :: rest) (hfirst : s.works = [] ∨ s.schedule.head? = some 0) :
    s.nextTransition = some (.present r) :=
  State.nextTransition_of_input (State.enabledInput_request h) hfirst

/-! ## One equation of `step` for each transition -/

theorem serve_of_decode {r : Request Config.addrWidth} {i : Instr} (h : decode r = .ok i) (s : State) :
    serve r s = exec i s := by
  rw [serve, h]

theorem step_of_decode {s : State} {r : Request Config.addrWidth} {i : Instr}
    (h : s.nextTransition = some (.present r)) (hi : decode r = .ok i) : step s = exec i s.taken := by
  rw [step_present h, serve_of_decode hi]

theorem step_callerWrite {s : State} {a : Nat} {v : Option Byte} (h : s.nextTransition = some (.callerWrite a v)) :
    step s = s.taken.callerWrite Config.addrWidth a v := by
  simp [step, h]

theorem step_reset {s : State} (h : s.nextTransition = some .reset) : step s = .next s.taken.discardWorks := by
  simp [step, h]

theorem step_wait {s : State} (h : s.enabled = []) (hw : s.works = []) : step s = .next s := by
  simp [step, State.nextTransition_none.2 h, State.waitOrStuck, hw]

theorem State.callerWrite_inSpace {aw a : Nat} (h : a < 2 ^ aw) (s : State) (v : Option Byte) :
    s.callerWrite aw a v =
      .next { s with mem := s.mem.set a v, works := s.works.map (Work.overwritten a (s.mem.read a)) } :=
  if_pos h

theorem State.callerWrite_outOfSpace {aw a : Nat} (h : 2 ^ aw ≤ a) (s : State) (v : Option Byte) :
    s.callerWrite aw a v = .fault .noSuchAddress :=
  if_neg (by omega)

theorem Work.overwritten_some (a : Nat) (old : Byte) (w : Work) :
    w.overwritten a (some old) =
      { w with held := if w.addr ≤ a ∧ a < w.addr + w.len then (a, old) :: w.held else w.held } := by
  by_cases h : w.addr ≤ a ∧ a < w.addr + w.len <;> simp [Work.overwritten, h]

/-! ## Where a run stops -/

theorem serve_cases (r : Request Config.addrWidth) (s : State) :
    (∃ t, serve r s = .next t) ∨ ∃ x, serve r s = .refused x := by
  cases hd : decode r with
  | error e => exact .inr ⟨_, serve_of_decode_error hd s⟩
  | ok i =>
    rw [serve_of_decode hd]
    cases hwf : i.wf with
    | false => exact .inr ⟨_, exec_of_not_wf hwf s⟩
    | true => exact .inl (exec_of_wf hwf s)

/-- Everything a step can do when it answers no next state. -/
theorem step_stops {s : State} (h : ∀ t, step s ≠ .next t) :
    (s.enabled = [] ∧ s.works ≠ [] ∧ step s = .fault .stuck) ∨
    (∃ r x, s.nextTransition = some (.present r) ∧ step s = .refused x) ∨
    step s = .fault .noSuchAddress := by
  cases hn : s.nextTransition with
  | none =>
    have henabled := State.nextTransition_none.1 hn
    have hw : s.works ≠ [] := fun hw => h s (step_wait henabled hw)
    exact .inl ⟨henabled, hw, step_stuck henabled hw⟩
  | some tr =>
    cases tr with
    | present r =>
      obtain ⟨t, ht⟩ | ⟨x, hx⟩ := serve_cases r s.taken
      · exact absurd ((step_present hn).trans ht) (h t)
      · exact .inr (.inl ⟨r, x, rfl, (step_present hn).trans hx⟩)
    | callerWrite a v =>
      rcases lt_or_ge a (2 ^ Config.addrWidth) with ha | ha
      · exact absurd ((step_callerWrite hn).trans (State.callerWrite_inSpace ha s.taken v)) (h _)
      · exact .inr (.inr ((step_callerWrite hn).trans (State.callerWrite_outOfSpace ha s.taken v)))
    | reset => exact absurd (step_reset hn) (h _)
    | byteStep k w b => exact absurd (step_byteStep hn) (h _)
    | deliver k w => exact absurd (step_deliver hn) (h _)

theorem enabled_eq_nil_of_step_stuck {s : State} (h : step s = .fault .stuck) : s.enabled = [] ∧ s.works ≠ [] := by
  obtain ⟨henabled, hw, -⟩ | ⟨r, x, -, hx⟩ | hx := step_stops (s := s) (by simp [h])
  · exact ⟨henabled, hw⟩
  · cases h.symm.trans hx
  · cases h.symm.trans hx

/-- Only a request that is presented is refused. -/
theorem present_of_step_refused {s : State} {x : Refusal} (h : step s = .refused x) :
    ∃ r, s.nextTransition = some (.present r) := by
  obtain ⟨-, -, hx⟩ | ⟨r, -, hn, -⟩ | hx := step_stops (s := s) (by simp [h])
  · cases h.symm.trans hx
  · exact ⟨r, hn⟩
  · cases h.symm.trans hx

/-- A buffer-update with no transition has a byte left, and that byte is not readable (R35, R115). -/
theorem Work.not_enabled {choice k : Nat} {m : Memory} {w : Work} (h : w.enabled choice m k = none) :
    w.idx ≠ w.len ∧ (w.idx < w.len → m.read w.nextAddr = none) := by
  refine ⟨fun hdone => ?_, fun hlt => ?_⟩
  · simp [Work.enabled_deliver hdone] at h
  · cases hr : m.read w.nextAddr with
    | none => rfl
    | some b => simp [Work.enabled, hlt, hlt.ne, Work.consumed, hr] at h

/-! ## The statements on what moves -/

/-- Settles O7: the equation for a request presented, and the choice of the callers' transition. -/
theorem stepRunsTheDecodedRequest : Obligations.StepRunsTheDecodedRequest := by
  refine ⟨fun s r i => step_of_decode, fun s r rest i hin hfirst hi => ?_⟩
  rw [step_of_decode (State.nextTransition_of_request hin hfirst) hi, State.taken, State.moved, hin, List.tail_cons]

theorem decode_of_decodeTableWord {nbits w : Nat} {i : Instr} (h : decodeTableWord nbits w = some i) :
    decode (requestOfTableWord nbits w) = .ok i := by
  unfold decodeTableWord at h
  cases hd : decode (requestOfTableWord nbits w) with
  | error e => simp [hd, Except.toOption] at h
  | ok j => simpa [hd, Except.toOption] using h

/-- Settles O8: the word is placed at the front of `inputs`, with 0 as the next choice. -/
theorem placedWordRunsNext : Obligations.PlacedWordRunsNext :=
  fun s nbits w i h => stepRunsTheDecodedRequest.2 (s.withFetchWord nbits w) _ s.inputs i rfl (.inr rfl)
    (decode_of_decodeTableWord h)

/-! ## What waits for a response -/

section Links

variable {s : State} {l : Link} {links : List Link} {v : Word} (hex : ∃ x ∈ s.responses, x.ticket = l.ticket)
  (hall : ∀ x ∈ s.responses, x.ticket = l.ticket → x.crcOut = v)

include hex hall

theorem State.enabled_request_link (r : Request Config.addrWidth) (rest : List Event) :
    ({ s with inputs := .request (l :: links) r :: rest } : State).enabled =
      ({ s with inputs := .request links (Request.put l.slot v r) :: rest } : State).enabled := by
  rw [State.enabled, State.enabled, State.enabledInput_request rfl, State.enabledInput_request rfl,
    fill_cons_of_response hex hall]
  rfl

theorem State.enabled_callerWrite_link (a : Nat) (b : Option Byte) (rest : List Event) :
    ({ s with inputs := .callerWrite (l :: links) a b :: rest } : State).enabled =
      ({ s with inputs := .callerWrite links (putWrite l.slot v (a, b)).1 (putWrite l.slot v (a, b)).2 :: rest } :
        State).enabled := by
  rw [State.enabled, State.enabled, State.enabledInput_callerWrite rfl, State.enabledInput_callerWrite rfl,
    fill_cons_of_response hex hall]
  rfl

end Links

/-- Settles O9: an unfilled input enables nothing, a response that exists is filled in, and an input without links is the
callers' one transition. -/
theorem chainedRequestWaitsForItsResponse : Obligations.ChainedRequestWaitsForItsResponse := by
  refine ⟨fun s links r rest hin ⟨l, hl, hno⟩ r' h => ?_, fun s links a v rest hin ⟨l, hl, hno⟩ a' v' h => ?_,
    fun s l links v r rest hex hall => ?_, fun s l links v a b rest hex hall => ?_,
    fun s r rest hin => ?_, fun s a b rest hin => ?_⟩
  · have hmem := State.present_mem_enabledInput h
    rw [State.enabledInput_request hin, fill_missing hl hno] at hmem
    cases hmem
  · have hmem := State.callerWrite_mem_enabledInput h
    rw [State.enabledInput_callerWrite hin, fill_missing hl hno] at hmem
    cases hmem
  · rw [State.enabled_request_link hex hall]
    obtain ⟨ticket, slot⟩ := l
    cases slot with
    | byteIn half => cases half <;> rfl
    | _ => rfl
  · rw [State.enabled_callerWrite_link hex hall]
    obtain ⟨ticket, slot⟩ := l
    cases slot with
    | written half => cases half <;> rfl
    | _ => rfl
  · have hinput : s.enabledInput = [.present r] := State.enabledInput_request hin
    refine ⟨List.mem_append_left _ (by simp [hinput]), fun r' h => ?_⟩
    simpa [hinput] using State.present_mem_enabledInput h
  · have hinput : s.enabledInput = [.callerWrite a b] := State.enabledInput_callerWrite hin
    refine ⟨List.mem_append_left _ (by simp [hinput]), fun a' b' h => ?_⟩
    simpa [hinput] using State.callerWrite_mem_enabledInput h

/-! ## The choice, and the transitions one by one -/

/-- Settles O10: what is enabled does not look at the schedule, whose first entry can choose any of it. -/
theorem anyEnabledTransitionCanMove : Obligations.AnyEnabledTransitionCanMove := by
  intro s t
  refine ⟨fun ht => ?_, fun ⟨c, hc⟩ => State.nextTransition_mem (s := { s with schedule := c :: s.schedule }) hc⟩
  cases henabled : s.enabled with
  | nil => simp [henabled] at ht
  | cons x l =>
    obtain ⟨c, hc⟩ := choose_surjective (henabled ▸ ht)
    refine ⟨c, ?_⟩
    rw [State.nextTransition_of_enabled (s := { s with schedule := c :: s.schedule }) henabled, ← hc]
    rfl

/-- Settles O11: each transition's equation reads of the state only the block, the next ticket and, for a caller's write,
the byte written over. -/
theorem blockChangesByItsOwnState : Obligations.BlockChangesByItsOwnState := by
  intro s s' t tr hblock haccepted hs hs' hread h
  have hworks : s'.works = s.works := congrArg Block.works hblock
  cases tr with
  | present r =>
    obtain ⟨i, hi, he⟩ := serve_next ((step_present hs).symm.trans h)
    rw [step_of_decode hs' hi]
    obtain ⟨v, hv⟩ | ⟨v, seed, addr, len, rfl⟩ := answer_or_bufferUpdate i
    · rw [exec_of_answer hv] at he ⊢
      cases he
      exact ⟨_, rfl, hblock⟩
    · rw [exec_bufferUpdateInstr] at he ⊢
      obtain ⟨hrange, rfl⟩ := State.accept_next he
      refine ⟨_, State.accept_inRange hrange v seed s'.taken, ?_⟩
      simp [hworks, haccepted]
  | callerWrite a v =>
    obtain ⟨ha, rfl⟩ := State.callerWrite_next ((step_callerWrite hs).symm.trans h)
    refine ⟨_, (step_callerWrite hs').trans (State.callerWrite_inSpace ha s'.taken v), ?_⟩
    simp [hworks, hread a v rfl]
  | reset =>
    cases (step_reset hs).symm.trans h
    exact ⟨_, step_reset hs', rfl⟩
  | byteStep k w b =>
    cases (step_byteStep hs).symm.trans h
    exact ⟨_, step_byteStep hs', congrArg (Block.byteStep · k w b) hblock⟩
  | deliver k w =>
    cases (step_deliver hs).symm.trans h
    exact ⟨_, step_deliver hs', congrArg (Block.deliver · k) hblock⟩

/-- Settles O35: the equation for a byte step, whose byte over an undisturbed buffer is the one read. -/
theorem byteStepConsumesTheNextByte : Obligations.ByteStepConsumesTheNextByte := by
  intro s k w b h
  obtain ⟨hk, hlt, hb⟩ := State.byteStep_moves h
  refine ⟨hk, hlt, fun hheld => (Work.consumed_stable hheld).symm.trans hb, ?_⟩
  rw [step_byteStep h, State.byteStep, Block.byteStep]
  cases w.variant <;> rfl

/-- Settles O36: the equation for a delivery. -/
theorem deliveryAnswersTheAccumulator : Obligations.DeliveryAnswersTheAccumulator := by
  intro s k w h
  obtain ⟨hk, hdone⟩ := State.deliver_moves h
  exact ⟨hk, hdone, step_deliver h⟩

/-- Settles O39: stuck, nothing is enabled, of what callers do and of each buffer-update. -/
theorem stuckOnlyWhenNothingCanMove : Obligations.StuckOnlyWhenNothingCanMove := by
  intro s h
  obtain ⟨henabled, hworks⟩ := enabled_eq_nil_of_step_stuck h
  obtain ⟨hinput, hblock⟩ := List.append_eq_nil_iff.1 henabled
  refine ⟨hinput, hworks, fun w hw => ?_⟩
  obtain ⟨k, hk⟩ := List.mem_iff_getElem?.1 hw
  refine Work.not_enabled (choice := Config.heldByte s.turn) (k := k) ?_
  by_contra hne
  obtain ⟨t, ht⟩ := Option.ne_none_iff_exists'.1 hne
  have hmem : t ∈ s.enabledWorks := State.mem_enabledWorks.2 ⟨k, w, hk, ht⟩
  simp [hblock] at hmem

/-- Settles O40: the byte consumed is the one read, or one of the record for that address. -/
theorem unstableByteWasHeld : Obligations.UnstableByteWasHeld := by
  intro s k w b h
  obtain ⟨-, -, hb⟩ := State.byteStep_moves h
  obtain ⟨now, hnow, hcases⟩ := Work.consumed_cases hb
  refine ⟨now, hnow, hcases.imp_right fun hheld => ?_⟩
  obtain ⟨⟨a, b⟩, hcell, rfl⟩ := List.mem_map.1 hheld
  obtain ⟨hmem, ha⟩ := List.mem_filter.1 hcell
  obtain rfl : a = w.nextAddr := by simpa using ha
  exact hmem

/-- Settles O48: the equation for a caller's write, and the laws of the memory. -/
theorem callerWriteIsReadBack : Obligations.CallerWriteIsReadBack := by
  intro s a v h hwf
  rw [step_callerWrite h]
  refine ⟨fun ha => ⟨_, State.callerWrite_inSpace ha s.taken v, Memory.read_set_same hwf a v,
    fun a' hne => Memory.read_set_other s.mem hne v, rfl, rfl, ?_⟩, fun ha => State.callerWrite_outOfSpace ha s.taken v⟩
  refine List.map_congr_left fun w _ => ?_
  rw [State.taken_mem]
  cases s.mem.read a with
  | none => rfl
  | some old => exact Work.overwritten_some a old w

end Sys2Proof.Machine
end

section
/-! What every step keeps: the invariant of the machine (R15, R18, R31, R34, R50, R53), the responses delivered and those
owed (R38), and, after a reset, the silence of what it discarded (R151). -/

namespace Sys2Proof.Machine

/-! ## The kinds of step -/

/-- Everything a step can do when it answers a next state, by what it changes: nothing, what an instruction means, what a
caller writes, everything in progress, or one buffer-update in progress. -/
theorem step_kinds {s t : State} (h : step s = .next t) :
    (s.works = [] ∧ t = s) ∨
    (∃ i, exec i s.taken = .next t) ∨
    (∃ a v, s.nextTransition = some (.callerWrite a v) ∧ a < 2 ^ Config.addrWidth ∧
      t = { s.taken with mem := s.mem.set a v, works := s.works.map (Work.overwritten a (s.mem.read a)) }) ∨
    (s.nextTransition = some .reset ∧ t = s.taken.discardWorks) ∨
    s.BlockMove t := by
  rcases step_next h with ⟨-, hw, rfl⟩ | ⟨r, i, -, -, he⟩ | ⟨a, v, hn, he⟩ | ⟨hn, rfl⟩ | ⟨k, w, b, hn, rfl⟩ |
    ⟨k, w, hn, rfl⟩
  · exact .inl ⟨hw, rfl⟩
  · exact .inr (.inl ⟨i, he⟩)
  · exact .inr (.inr (.inl ⟨a, v, hn, State.callerWrite_next he⟩))
  · exact .inr (.inr (.inr (.inl ⟨hn, rfl⟩)))
  · obtain ⟨hk, hlt, hb⟩ := State.byteStep_moves hn
    exact .inr (.inr (.inr (.inr (.byteStep hk hlt hb))))
  · obtain ⟨hk, hdone⟩ := State.deliver_moves hn
    exact .inr (.inr (.inr (.inr (.deliver hk hdone))))

section

variable {s t : State}

/-! ## The responses -/

theorem exec_responses {i : Instr} (h : exec i s = .next t) :
    t.responses = s.responses ∨ ∃ r, t.responses = s.responses ++ [r] := by
  obtain ⟨v, rfl⟩ | ⟨v, seed, addr, len, -, rfl⟩ := exec_next h
  · exact .inr ⟨_, rfl⟩
  · exact .inl rfl

theorem State.BlockMove.responses_eq (h : s.BlockMove t) :
    t.responses = s.responses ∨ ∃ r, t.responses = s.responses ++ [r] := by
  cases h with
  | byteStep => exact .inl rfl
  | deliver => exact .inr ⟨_, rfl⟩

theorem step_responses (h : step s = .next t) : t.responses = s.responses ∨ ∃ r, t.responses = s.responses ++ [r] := by
  obtain ⟨-, rfl⟩ | ⟨i, he⟩ | ⟨a, v, -, -, rfl⟩ | ⟨-, rfl⟩ | hmove := step_kinds h
  · exact .inl rfl
  · exact exec_responses (s := s.taken) he
  · exact .inl rfl
  · exact .inl rfl
  · exact hmove.responses_eq

theorem mem_responses_of_step {r : Response} (h : step s = .next t) (hr : r ∈ s.responses) : r ∈ t.responses := by
  obtain heq | ⟨r', heq⟩ := step_responses h
  · rwa [heq]
  · rw [heq]
    exact List.mem_append_left _ hr

/-! ## The tickets -/

@[simp] theorem Work.overwritten_ticket (a : Nat) (old : Option Byte) (w : Work) :
    (w.overwritten a old).ticket = w.ticket := by
  cases old with
  | none => rfl
  | some b => rw [Work.overwritten_some]

theorem Work.overwritten_inBounds {aw : Nat} {w : Work} (a : Nat) (old : Option Byte) (h : w.inBounds aw) :
    (w.overwritten a old).inBounds aw := by
  cases old with
  | none => exact h
  | some b =>
    rw [Work.overwritten_some]
    exact h

/-- A request taken up gets the next ticket and no other. -/
theorem exec_tickets {i : Instr} (h : exec i s = .next t) :
    t.accepted = s.accepted + 1 ∧ t.tickets.Perm (s.accepted :: s.tickets) := by
  obtain ⟨v, rfl⟩ | ⟨v, seed, addr, len, -, rfl⟩ := exec_next h
  · refine ⟨rfl, ?_⟩
    simp only [State.tickets, State.respond_works, State.respond_responses, List.map_append, ← List.append_assoc]
    exact List.perm_append_singleton _ _
  · refine ⟨rfl, ?_⟩
    simp only [State.tickets, List.map_append, List.append_assoc, List.map_cons, List.map_nil, List.singleton_append]
    exact List.perm_middle

theorem State.BlockMove.tickets_perm (h : s.BlockMove t) : t.tickets.Perm s.tickets := by
  cases h with
  | byteStep hk hlt hb =>
    obtain ⟨l₁, l₂, hs, hset, -⟩ := State.works_split hk
    simp only [State.tickets, hs, hset, State.byteStep_responses, State.moved_responses, List.map_append, List.map_cons,
      Work.fed_ticket]
    exact .refl _
  | deliver hk hdone =>
    obtain ⟨l₁, l₂, hs, -, herase⟩ := State.works_split hk
    simp only [State.tickets, hs, herase, State.deliver_responses, State.moved_responses, List.map_append, List.map_cons,
      List.map_nil, ← List.append_assoc]
    refine (List.perm_append_singleton _ _).trans ?_
    simp only [List.append_assoc]
    exact List.perm_middle.symm

/-- What a step does to the tickets: it loses some to a reset or keeps them, or it gives the next one. -/
theorem step_tickets (h : step s = .next t) :
    (t.accepted = s.accepted ∧ t.tickets.Subperm s.tickets) ∨
      (t.accepted = s.accepted + 1 ∧ t.tickets.Perm (s.accepted :: s.tickets)) := by
  obtain ⟨-, rfl⟩ | ⟨i, he⟩ | ⟨a, v, -, -, rfl⟩ | ⟨-, rfl⟩ | hmove := step_kinds h
  · exact .inl ⟨rfl, .refl _⟩
  · exact .inr (exec_tickets (s := s.taken) he)
  · refine .inl ⟨rfl, List.Perm.subperm (.of_eq ?_)⟩
    simp [State.tickets, Function.comp_def]
  · exact .inl ⟨rfl, (List.sublist_append_right _ _).subperm⟩
  · exact .inl ⟨by cases hmove <;> rfl, hmove.tickets_perm.subperm⟩

/-! ## The memory and the bounds -/

theorem step_mem (h : step s = .next t) :
    t.mem = s.mem ∨ ∃ a v, a < 2 ^ Config.addrWidth ∧ t.mem = s.mem.set a v := by
  obtain ⟨-, rfl⟩ | ⟨i, he⟩ | ⟨a, v, -, ha, rfl⟩ | ⟨-, rfl⟩ | hmove := step_kinds h
  · exact .inl rfl
  · exact .inl ((exec_keeps_mem he).trans s.taken_mem)
  · exact .inr ⟨a, v, ha, rfl⟩
  · exact .inl rfl
  · exact .inl (by cases hmove <;> rfl)

/-- R34, R53: a buffer-update just accepted is within its bounds. -/
theorem Work.start_inBounds {aw : Nat} {addr len : BitVec aw} (h : addr.toNat + len.toNat ≤ 2 ^ aw) (v : Variant)
    (seed : Word) (ticket : Nat) : (Work.start v seed addr.toNat len.toNat ticket).inBounds aw :=
  ⟨Nat.zero_le _, len.isLt, addr.isLt, h⟩

/-- What a step leaves in progress was in progress, a byte or an overwriting back, or was just accepted in range. -/
theorem step_keeps_inBounds (h : step s = .next t) (hs : ∀ w ∈ s.works, w.inBounds Config.addrWidth) :
    ∀ w ∈ t.works, w.inBounds Config.addrWidth := by
  intro w hw
  obtain ⟨-, rfl⟩ | ⟨i, he⟩ | ⟨a, v, -, -, rfl⟩ | ⟨-, rfl⟩ | hmove := step_kinds h
  · exact hs w hw
  · obtain ⟨v, rfl⟩ | ⟨v, seed, addr, len, hrange, rfl⟩ := exec_next he
    · exact hs w hw
    · rcases List.mem_append.1 hw with hw | hw
      · exact hs w hw
      · obtain rfl := List.mem_singleton.1 hw
        exact Work.start_inBounds hrange v seed _
  · obtain ⟨w', hw', rfl⟩ := List.mem_map.1 hw
    exact Work.overwritten_inBounds a _ (hs w' hw')
  · cases hw
  · cases hmove with
    | byteStep hk hlt hb =>
      rcases List.mem_or_eq_of_mem_set hw with hw | rfl
      · exact hs w hw
      · obtain ⟨-, hrest⟩ := hs _ (List.mem_of_getElem? hk)
        exact ⟨hlt, hrest⟩
    | deliver hk hdone => exact hs w (List.mem_of_mem_eraseIdx hw)

/-! ## What is owed -/

/-- A write outside its buffer leaves a buffer-update and what it leads to as they are. -/
theorem Work.overwritten_of_not_covers {w : Work} {a : Nat} (h : ¬ w.covers a) (old : Option Byte) :
    w.overwritten a old = w := by
  cases old with
  | none => rfl
  | some b =>
    rw [Work.overwritten_some]
    exact congrArg (fun held => { w with held }) (if_neg h)

theorem Work.result_set_of_not_covers {w : Work} {a : Nat} (h : ¬ w.covers a) (hle : w.idx ≤ w.len) (m : Memory)
    (v : Option Byte) : w.result (m.set a v) = w.result m := by
  have hrest : w.rest (m.set a v) = w.rest m := by
    refine Memory.buffer_congr fun x hx hx' => Memory.read_set_other m ?_ v
    rintro rfl
    exact h ⟨by omega, by omega⟩
  rw [Work.result, hrest, Work.result]

/-- What is owed is kept where the working states stay, the responses stay and the bytes stay. -/
theorem State.Owes.mono {ticket : Nat} {v : Word} (h : s.Owes ticket v) (hmem : t.mem = s.mem)
    (hworks : ∀ w ∈ s.works, w ∈ t.works) (hresponses : ∀ r ∈ s.responses, r ∈ t.responses) : t.Owes ticket v := by
  obtain ⟨w, hw, hticket, hheld, hle, hres⟩ | hr := h
  · exact .inl ⟨w, hworks w hw, hticket, hheld, hle, by rwa [hmem]⟩
  · exact .inr (hresponses _ hr)

theorem step_keeps_owes {ticket : Nat} {v : Word} (ho : s.Owes ticket v)
    (hundisturbed : ∀ tr, s.nextTransition = some tr → s.Undisturbed ticket tr) (h : step s = .next t) :
    t.Owes ticket v := by
  obtain ⟨-, rfl⟩ | ⟨i, he⟩ | ⟨a, b, hn, -, rfl⟩ | ⟨hn, -⟩ | hmove := step_kinds h
  · exact ho
  · exact ho.mono ((exec_keeps_mem he).trans s.taken_mem) (fun w => exec_keeps_works (s := s.taken) he)
      fun r => mem_responses_of_step h
  · obtain ⟨w, hw, hticket, hheld, hle, hres⟩ | hr := ho
    · have hout : ¬ w.covers a := (hundisturbed _ hn).2 a b rfl w hw hticket
      have hw' : w ∈ s.works.map (Work.overwritten a (s.mem.read a)) :=
        List.mem_map.2 ⟨w, hw, Work.overwritten_of_not_covers hout _⟩
      exact .inl ⟨w, hw', hticket, hheld, hle, (Work.result_set_of_not_covers hout hle s.mem b).trans hres⟩
    · exact .inr hr
  · exact absurd rfl (hundisturbed _ hn).1
  · exact hmove.owes ho

/-! ## What a reset discarded -/

/-- The request `ticket` was accepted, and is neither in progress nor answered (R151). -/
def State.Lost (s : State) (ticket : Nat) : Prop := ticket < s.accepted ∧ ticket ∉ s.tickets

/-- A lost request stays so: a new ticket is another one. -/
theorem step_keeps_lost {ticket : Nat} (hlost : s.Lost ticket) (h : step s = .next t) : t.Lost ticket := by
  obtain ⟨hlt, hout⟩ := hlost
  obtain ⟨ha, hsub⟩ | ⟨ha, hperm⟩ := step_tickets h
  · exact ⟨by omega, fun hmem => hout (hsub.subset hmem)⟩
  · refine ⟨by omega, fun hmem => ?_⟩
    rcases List.mem_cons.1 (hperm.subset hmem) with rfl | hmem
    · exact lt_irrefl _ hlt
    · exact hout hmem

end

/-- What every step keeps holds after any number of steps. -/
theorem run_keeps {P : State → Prop} (hstep : ∀ s t, P s → step s = .next t → P t) {n : Nat} {s t : State} (hs : P s)
    (h : Host.Core.run core n s = .next t) : P t := by
  induction n generalizing s with
  | zero =>
    cases h
    exact hs
  | succ n ih =>
    simp only [Host.Core.run] at h
    split at h
    · next u hu => exact ih (hstep s u hs hu) h
    · cases h
    · cases h

/-! ## The statements -/

/-- Settles O41: what moves is another request's, its own byte step or delivery, or a write outside its buffer. -/
theorem owedResponseIsKept : Obligations.OwedResponseIsKept :=
  fun _ _ _ _ ho hundisturbed h => step_keeps_owes ho hundisturbed h

/-- Settles O55: the memory is the same or a caller's byte in the space away from it, and the tickets are fewer or one
more, the next. -/
theorem stepKeepsTheInvariant : Obligations.StepKeepsTheInvariant := by
  intro s t hinv h
  obtain ⟨hcanonical, hspace, hbounds, hgiven, honce⟩ := hinv
  have hmemory : t.mem.wf ∧ ∀ c ∈ t.mem, c.1 < 2 ^ Config.addrWidth := by
    obtain hm | ⟨a, v, ha, hm⟩ := step_mem h <;> rw [hm]
    · exact ⟨hcanonical, hspace⟩
    · refine ⟨Memory.set_wf hcanonical a v, fun c hc => ?_⟩
      rcases Memory.mem_set hc with rfl | hc
      · exact ha
      · exact hspace c hc
  have htickets : (∀ x ∈ t.tickets, x < t.accepted) ∧ t.tickets.Nodup := by
    obtain ⟨ha, hsub⟩ | ⟨ha, hperm⟩ := step_tickets h <;> rw [ha]
    · obtain ⟨l, hperm, hsublist⟩ := hsub
      exact ⟨fun x hx => hgiven x (hsublist.subset (hperm.mem_iff.2 hx)), hperm.nodup_iff.1 (honce.sublist hsublist)⟩
    · refine ⟨fun x hx => ?_, hperm.nodup_iff.2 (List.nodup_cons.2 ⟨fun hx => lt_irrefl _ (hgiven _ hx), honce⟩)⟩
      rcases List.mem_cons.1 (hperm.subset hx) with rfl | hx
      · exact Nat.lt_succ_self _
      · exact Nat.lt_succ_of_lt (hgiven x hx)
  exact ⟨hmemory.1, hmemory.2, step_keeps_inBounds h hbounds, htickets.1, htickets.2⟩

/-- Settles O46: only an answer and a delivery add a response. -/
theorem responsesOnlyGrow : Obligations.ResponsesOnlyGrow := fun _ _ => step_responses

/-- Settles O49: what is discarded is lost, under the invariant, and stays lost. -/
theorem resetDiscardsWhatIsInProgress : Obligations.ResetDiscardsWhatIsInProgress := by
  intro s hn
  refine ⟨step_reset hn, fun hinv n t u hstep hrun w hw r hr hticket => ?_⟩
  cases (step_reset hn).symm.trans hstep
  have hgiven : w.ticket ∈ s.works.map Work.ticket := List.mem_map_of_mem hw
  have hlost : s.taken.discardWorks.Lost w.ticket :=
    ⟨hinv.ticketsGiven _ (List.mem_append_left _ hgiven), List.disjoint_of_nodup_append hinv.ticketsOnce hgiven⟩
  obtain ⟨-, hout⟩ := run_keeps (fun _ _ => step_keeps_lost) hlost hrun
  exact hout (List.mem_append_right _ (hticket ▸ List.mem_map_of_mem hr))

/-- Settles O51: nothing is presented and nothing is in progress, so nothing is enabled. -/
theorem quietBlockWaits : Obligations.QuietBlockWaits := by
  intro s ⟨hin, hw⟩
  refine step_wait ?_ hw
  rw [State.enabled, State.enabledInput_of_no_inputs hin, State.enabledWorks_unreadable (by simp [hw]), List.append_nil]

theorem resetWith_inv {p : Parameters} (hwf : p.mem.wf) (hspace : ∀ c ∈ p.mem, c.1 < 2 ^ Config.addrWidth) :
    (State.resetWith p).Inv where
  memCanonical := hwf
  memInSpace := hspace
  worksInBounds := by simp
  ticketsGiven := by simp [State.tickets]
  ticketsOnce := by simp [State.tickets]

/-- Settles O52: nothing is in progress and no ticket is given; the host's reset has the empty memory. -/
theorem resetMeetsTheInvariant : Obligations.ResetMeetsTheInvariant :=
  ⟨resetWith_inv State.reset_mem_wf (by simp), fun _ => resetWith_inv⟩

end Sys2Proof.Machine
end

section
/-! The tables and the division they come from (40_table_lookup.md, 41_byte_update.md section 4). One iteration of the
division is linear and injective, and the two divisions are bit reversals of each other; a byte-update is eight
iterations; so the laws of the tables, of the byte-updates and of the residue follow for both variants. -/

namespace Sys2Proof.Machine

/-! ## Bit reversal -/

theorem getLsbD_reverse_eq {n : Nat} (v : BitVec n) (i : Nat) :
    v.reverse.getLsbD i = (decide (i < n) && v.getLsbD (n - 1 - i)) := by
  rw [BitVec.getLsbD_reverse, BitVec.getMsbD_eq_getLsbD]

theorem reverse_xor {n : Nat} (v w : BitVec n) : (v ^^^ w).reverse = v.reverse ^^^ w.reverse :=
  BitVec.eq_of_getLsbD_eq fun i hi => by
    simp only [getLsbD_reverse_eq, BitVec.getLsbD_xor, hi, decide_true, Bool.true_and]

theorem reverse_shiftRight {n : Nat} (v : BitVec n) (k : Nat) : (v >>> k).reverse = v.reverse <<< k := by
  refine BitVec.eq_of_getLsbD_eq fun i hi => ?_
  simp only [getLsbD_reverse_eq, BitVec.getLsbD_ushiftRight, BitVec.getLsbD_shiftLeft, hi, decide_true, Bool.true_and]
  rcases lt_or_ge i k with hk | hk
  · rw [BitVec.getLsbD_of_ge v _ (by omega)]
    simp [hk]
  · rw [show k + (n - 1 - i) = n - 1 - (i - k) by omega]
    simp [hk.not_gt, show i - k < n by omega]

theorem highByte_reverse (v : Word) : highByte v.reverse = (lowByte v).reverse := by
  refine BitVec.eq_of_getLsbD_eq fun i hi => ?_
  simp only [highByte, lowByte, BitVec.getLsbD_extractLsb', getLsbD_reverse_eq, hi, show 8 + i < 16 by omega,
    show 16 - 1 - (8 + i) = 0 + (8 - 1 - i) by omega, show 8 - 1 - i < 8 by omega]

theorem reverse_zext16 (b : Byte) : (zext16 b).reverse = zext16 b.reverse <<< 8 := by
  refine BitVec.eq_of_getLsbD_eq fun i hi => ?_
  simp only [zext16, BitVec.getLsbD_shiftLeft, BitVec.getLsbD_setWidth, getLsbD_reverse_eq, hi, decide_true,
    Bool.true_and, show 16 - 1 - i < 16 by omega, show i - 8 < 16 by omega]
  rcases lt_or_ge i 8 with h8 | h8
  · rw [BitVec.getLsbD_of_ge b _ (by omega)]
    simp [h8]
  · rw [show 16 - 1 - i = 8 - 1 - (i - 8) by omega]
    simp [h8.not_gt, show i - 8 < 8 by omega]

/-! ## One iteration of the division -/

theorem divideBitReflected_eq (r : Word) :
    divideBitReflected r = (r >>> 1) ^^^ (bif r.getLsbD 0 then polyReflected else 0#16) := by
  unfold divideBitReflected
  cases r.getLsbD 0 <;> simp

theorem divideBit_eq (r : Word) : divideBit r = (r <<< 1) ^^^ (bif r.getLsbD 15 then poly else 0#16) := by
  unfold divideBit
  cases r.getLsbD 15 <;> simp

theorem cond_xor (a b : Bool) (p : Word) :
    (bif a ^^ b then p else 0#16) = (bif a then p else 0#16) ^^^ (bif b then p else 0#16) := by
  cases a <;> cases b <;> simp

/-- The two divisions are bit reversals of each other. -/
theorem reverse_divideBitReflected (r : Word) : (divideBitReflected r).reverse = divideBit r.reverse := by
  have hpoly : polyReflected.reverse = poly := by decide
  have hbit : r.reverse.getLsbD 15 = r.getLsbD 0 := getLsbD_reverse_eq r 15
  rw [divideBitReflected_eq, divideBit_eq, reverse_xor, reverse_shiftRight, hbit]
  cases r.getLsbD 0
  · rfl
  · rw [cond_true, cond_true, hpoly]

theorem divideBitReflected_xor (r s : Word) :
    divideBitReflected (r ^^^ s) = divideBitReflected r ^^^ divideBitReflected s := by
  simp only [divideBitReflected_eq, BitVec.ushiftRight_xor_distrib, BitVec.getLsbD_xor, cond_xor]
  ac_rfl

/-- The bit shifted out of 0 is found again in bit 15. -/
theorem divideBitReflected_eq_zero {r : Word} (h : divideBitReflected r = 0#16) : r = 0#16 := by
  have hbit : ∀ i, ((r >>> 1) ^^^ (bif r.getLsbD 0 then polyReflected else 0#16)).getLsbD i = false := fun i => by
    rw [← divideBitReflected_eq, h, BitVec.getLsbD_zero]
  have hzero : r.getLsbD 0 = false := by
    cases h0 : r.getLsbD 0 with
    | false => rfl
    | true =>
      have h15 := hbit 15
      rw [h0, BitVec.getLsbD_xor, BitVec.getLsbD_ushiftRight, BitVec.getLsbD_of_ge r _ (by decide)] at h15
      cases h15
  refine BitVec.eq_of_getLsbD_eq fun i _ => ?_
  cases i with
  | zero => rw [hzero, BitVec.getLsbD_zero]
  | succ i =>
    have hi := hbit i
    rw [hzero, cond_false, BitVec.xor_zero, BitVec.getLsbD_ushiftRight, Nat.add_comm] at hi
    rw [hi, BitVec.getLsbD_zero]

theorem divideBit_eq_reverse (r : Word) : divideBit r = (divideBitReflected r.reverse).reverse := by
  rw [reverse_divideBitReflected, BitVec.reverse_reverse_eq]

/-- One iteration of the division of a variant (R70, R71). -/
def divide : Variant → Word → Word
  | .ccitt => divideBitReflected
  | .ccittFalse => divideBit

theorem divide_xor (v : Variant) (r s : Word) : divide v (r ^^^ s) = divide v r ^^^ divide v s := by
  cases v with
  | ccitt => exact divideBitReflected_xor r s
  | ccittFalse => simp only [divide, divideBit_eq_reverse, reverse_xor, divideBitReflected_xor]

theorem divide_eq_zero {v : Variant} {r : Word} (h : divide v r = 0#16) : r = 0#16 := by
  cases v with
  | ccitt => exact divideBitReflected_eq_zero h
  | ccittFalse =>
    have hreflected : divideBitReflected r.reverse = 0#16 := by
      rw [← BitVec.reverse_reverse_eq (x := divideBitReflected r.reverse), ← divideBit_eq_reverse]
      exact congrArg BitVec.reverse h
    rw [← BitVec.reverse_reverse_eq (x := r), divideBitReflected_eq_zero hreflected]
    rfl

theorem divide_injective (v : Variant) : Function.Injective (divide v) := by
  intro r s h
  refine BitVec.xor_eq_zero_iff.1 (divide_eq_zero (v := v) ?_)
  rw [divide_xor, h, BitVec.xor_self]

/-! ## Eight iterations -/

theorem eightTimes_eq_iterate (f : Word → Word) : eightTimes f = f^[8] := rfl

/-- "repeat 8 times" as the statements write it. -/
theorem foldl_range_eight (f : Word → Word) (r : Word) : (List.range 8).foldl (fun r _ => f r) r = eightTimes f r := rfl

theorem eightTimes_divide_xor (v : Variant) (r s : Word) :
    eightTimes (divide v) (r ^^^ s) = eightTimes (divide v) r ^^^ eightTimes (divide v) s := by
  simp only [eightTimes, divide_xor]

theorem eightTimes_divide_injective (v : Variant) : Function.Injective (eightTimes (divide v)) := by
  rw [eightTimes_eq_iterate]
  exact (divide_injective v).iterate 8

theorem reverse_eightTimes (r : Word) :
    (eightTimes divideBitReflected r).reverse = eightTimes divideBit r.reverse :=
  Function.Semiconj.iterate_right (f := BitVec.reverse) reverse_divideBitReflected 8 r

/-- Eight zeros at the low end are shifted out, and nothing else happens. -/
theorem eightTimes_divideBitReflected_shiftLeft (r : Word) :
    eightTimes divideBitReflected (r <<< 8) = (r <<< 8) >>> 8 := by
  simp [eightTimes, divideBitReflected, ← BitVec.shiftRight_add]

theorem shiftRight_shiftLeft_shiftRight (r : Word) : ((r >>> 8) <<< 8) >>> 8 = r >>> 8 := by
  refine BitVec.eq_of_getLsbD_eq fun i hi => ?_
  rcases lt_or_ge i 8 with h8 | h8
  · simp [show 8 + i < 16 by omega]
  · simp [BitVec.getLsbD_of_ge r (8 + i) (by omega)]

theorem split_bytes (r : Word) : r = ((r >>> 8) <<< 8) ^^^ zext16 (lowByte r) := by
  refine BitVec.eq_of_getLsbD_eq fun i hi => ?_
  rcases lt_or_ge i 8 with h8 | h8
  · simp [zext16, lowByte, hi, h8]
  · simp [zext16, lowByte, hi, h8.not_gt, h8]

/-- Eight iterations shift the low byte out and add its table entry. -/
theorem eightTimes_divideBitReflected_eq (r : Word) :
    eightTimes divideBitReflected r = (r >>> 8) ^^^ generateCcitt (lowByte r) := by
  have hxor : eightTimes divideBitReflected r =
      eightTimes divideBitReflected ((r >>> 8) <<< 8) ^^^ generateCcitt (lowByte r) := by
    conv_lhs => rw [split_bytes r]
    exact eightTimes_divide_xor .ccitt _ _
  rw [hxor, eightTimes_divideBitReflected_shiftLeft, shiftRight_shiftLeft_shiftRight]

/-! ## The printed entries -/

theorem tCcitt_eq_generate : ∀ i : Byte, tCcitt i = generateCcitt i := by
  decide +kernel

theorem tFalse_eq_generate : ∀ i : Byte, tFalse i = generateFalse i := by
  decide +kernel

theorem generateFalse_eq (i : Byte) : generateFalse i = eightTimes divideBit (zext16 i <<< 8) := by
  have halign : i ++ (0 : Byte) = zext16 i <<< 8 := by
    refine BitVec.eq_of_getLsbD_eq fun k hk => ?_
    refine BitVec.getLsbD_append.trans ?_
    rcases lt_or_ge k 8 with h8 | h8
    · simp [zext16, h8]
    · simp [zext16, h8.not_gt, hk]
  rw [generateFalse, halign]

theorem tFalse_eq_reverse (i : Byte) : tFalse i = (tCcitt i.reverse).reverse := by
  rw [tFalse_eq_generate, tCcitt_eq_generate, generateFalse_eq, generateCcitt, reverse_eightTimes, ← zext16,
    reverse_zext16, BitVec.reverse_reverse_eq]

/-! ## A byte-update is eight iterations -/

theorem lowByte_xor (v w : Word) : lowByte (v ^^^ w) = lowByte v ^^^ lowByte w := BitVec.extractLsb'_xor

theorem zext16_xor (b c : Byte) : zext16 (b ^^^ c) = zext16 b ^^^ zext16 c := BitVec.setWidth_xor

theorem lowByte_zext16 (b : Byte) : lowByte (zext16 b) = b := by
  rw [lowByte_eq_setWidth, zext16, BitVec.setWidth_setWidth_of_le b (by decide), BitVec.setWidth_eq]

theorem highByte_shiftLeft (v : Word) : highByte (v <<< 8) = lowByte v :=
  BitVec.eq_of_getLsbD_eq fun i hi => by
    simp [lowByte, highByte, hi, show 8 + i < 16 by omega, show i < 16 by omega]

theorem zext16_shiftRight (b : Byte) : zext16 b >>> 8 = 0#16 :=
  BitVec.eq_of_getLsbD_eq fun i _ => by simp [zext16]

theorem byteUpdateCcitt_eq_eightTimes (crc : Word) (b : Byte) :
    byteUpdateCcitt crc b = eightTimes divideBitReflected (crc ^^^ zext16 b) := by
  rw [eightTimes_divideBitReflected_eq, BitVec.ushiftRight_xor_distrib, zext16_shiftRight, BitVec.xor_zero, lowByte_xor,
    lowByte_zext16, byteUpdateCcitt_eq, tCcitt_eq_generate]

/-- The two byte-updates are bit reversals of each other. -/
theorem reverse_byteUpdateCcitt (crc : Word) (b : Byte) :
    (byteUpdateCcitt crc b).reverse = byteUpdateFalse crc.reverse b.reverse := by
  rw [byteUpdateCcitt_eq, byteUpdateFalse_eq, reverse_xor, reverse_shiftRight, highByte_reverse, tFalse_eq_reverse,
    ← reverse_xor, BitVec.reverse_reverse_eq]

/-- The byte where its variant adds it: in the low byte, or in the high byte. -/
def alignedByte : Variant → Byte → Word
  | .ccitt, b => zext16 b
  | .ccittFalse, b => zext16 b <<< 8

theorem byteUpdate_eq_eightTimes (v : Variant) (crc : Word) (b : Byte) :
    byteUpdate v crc b = eightTimes (divide v) (crc ^^^ alignedByte v b) := by
  cases v with
  | ccitt => exact byteUpdateCcitt_eq_eightTimes crc b
  | ccittFalse =>
    have h := reverse_byteUpdateCcitt crc.reverse b.reverse
    rw [BitVec.reverse_reverse_eq, BitVec.reverse_reverse_eq, byteUpdateCcitt_eq_eightTimes, reverse_eightTimes,
      reverse_xor, reverse_zext16, BitVec.reverse_reverse_eq, BitVec.reverse_reverse_eq] at h
    exact h.symm

theorem alignedByte_xor (v : Variant) (b c : Byte) : alignedByte v (b ^^^ c) = alignedByte v b ^^^ alignedByte v c := by
  cases v with
  | ccitt => exact zext16_xor b c
  | ccittFalse => simp only [alignedByte, zext16_xor, BitVec.shiftLeft_xor_distrib]

theorem alignedByte_injective (v : Variant) : Function.Injective (alignedByte v) := by
  cases v with
  | ccitt => exact Function.LeftInverse.injective lowByte_zext16
  | ccittFalse => exact Function.LeftInverse.injective fun b => (highByte_shiftLeft _).trans (lowByte_zext16 b)

theorem byteUpdate_xor (v : Variant) (c₁ c₂ : Word) (b₁ b₂ : Byte) :
    byteUpdate v (c₁ ^^^ c₂) (b₁ ^^^ b₂) = byteUpdate v c₁ b₁ ^^^ byteUpdate v c₂ b₂ := by
  simp only [byteUpdate_eq_eightTimes, ← eightTimes_divide_xor, alignedByte_xor]
  congr 1
  ac_rfl

theorem byteUpdate_injective (v : Variant) (b : Byte) : Function.Injective (byteUpdate v · b) := by
  intro c c' h
  simp only [byteUpdate_eq_eightTimes] at h
  exact (BitVec.xor_left_inj _).1 (eightTimes_divide_injective v h)

/-! ## The tables as byte-updates of 0x0000 -/

/-- The table of a variant. -/
def table : Variant → Byte → Word
  | .ccitt => tCcitt
  | .ccittFalse => tFalse

theorem table_eq_byteUpdate (v : Variant) (i : Byte) : table v i = byteUpdate v 0x0000 i := by
  cases v with
  | ccitt => exact (byteUpdateCcitt_zero_crc i).symm
  | ccittFalse => exact (byteUpdateFalse_zero_crc i).symm

theorem table_xor (v : Variant) (a b : Byte) : table v (a ^^^ b) = table v a ^^^ table v b := by
  simp only [table_eq_byteUpdate, ← byteUpdate_xor, BitVec.xor_self]
  rfl

theorem table_injective (v : Variant) : Function.Injective (table v) := by
  intro a b h
  simp only [table_eq_byteUpdate, byteUpdate_eq_eightTimes] at h
  exact alignedByte_injective v ((BitVec.xor_right_inj _).1 (eightTimes_divide_injective v h))

theorem byteUpdate_eq_table_iff (v : Variant) (seed : Word) :
    (∀ i, byteUpdate v seed i = table v i) ↔ seed = 0x0000 := by
  refine ⟨fun h => ?_, fun h i => by rw [h, table_eq_byteUpdate]⟩
  have h0 : byteUpdate v seed 0 = byteUpdate v 0x0000 0 := (h 0).trans (table_eq_byteUpdate v 0)
  exact byteUpdate_injective v 0 h0

/-! ## The residue -/

/-- Each half of the accumulator, consumed in the order in which it is shifted out, cancels its index. -/
theorem byteUpdateCcitt_own_bytes (c : Word) : byteUpdateCcitt (byteUpdateCcitt c (lowByte c)) (highByte c) = 0x0000 := by
  rw [byteUpdateCcitt_lowByte, ← lowByte_shiftRight, byteUpdateCcitt_lowByte, ← BitVec.shiftRight_add]
  exact BitVec.ushiftRight_eq_zero (by decide)

theorem byteUpdateFalse_own_bytes (c : Word) : byteUpdateFalse (byteUpdateFalse c (highByte c)) (lowByte c) = 0x0000 := by
  rw [byteUpdateFalse_highByte, ← highByte_shiftLeft, byteUpdateFalse_highByte, ← BitVec.shiftLeft_add]
  exact BitVec.shiftLeft_eq_zero (by decide)

/-! ## The statements -/

/-- Settles O14: the printed entries are compared one by one with what the division leaves. -/
theorem ccittTableIsGenerated : Obligations.CcittTableIsGenerated :=
  ⟨fun i => (tCcitt_eq_generate i).trans (foldl_range_eight divideBitReflected _).symm, by decide +kernel,
    by decide +kernel⟩

/-- Settles O15: the printed entries are compared one by one with what the division leaves. -/
theorem falseTableIsGenerated : Obligations.FalseTableIsGenerated :=
  ⟨fun i => ((tFalse_eq_generate i).trans (generateFalse_eq i)).trans (foldl_range_eight divideBit _).symm,
    by decide +kernel, by decide +kernel⟩

/-- Settles O16: a table is its byte-update from 0x0000, and that is linear. -/
theorem tablesAreLinear : Obligations.TablesAreLinear :=
  fun a b => ⟨table_xor .ccitt a b, table_xor .ccittFalse a b⟩

/-- Settles O17: eight iterations are injective, and the two divisions are bit reversals of each other. -/
theorem tablesAreInjectiveReversals : Obligations.TablesAreInjectiveReversals :=
  ⟨table_injective .ccitt, table_injective .ccittFalse, tFalse_eq_reverse⟩

/-- Settles O22: two seeds with one result for some byte are the same, and the tables are the results of 0x0000. -/
theorem zeroIsTheOnlyReferenceSeed : Obligations.ZeroIsTheOnlyReferenceSeed :=
  ⟨byteUpdate_eq_table_iff .ccitt, byteUpdate_eq_table_iff .ccittFalse⟩

/-- Settles O23: eight iterations on the accumulator with the byte added where its variant adds it. -/
theorem byteUpdatesAreBitSerial : Obligations.ByteUpdatesAreBitSerial :=
  fun crc b => ⟨(byteUpdate_eq_eightTimes .ccitt crc b).trans (foldl_range_eight divideBitReflected _).symm,
    (byteUpdate_eq_eightTimes .ccittFalse crc b).trans (foldl_range_eight divideBit _).symm⟩

/-- Settles O24: each iteration is linear. -/
theorem byteUpdatesAreLinear : Obligations.ByteUpdatesAreLinear := byteUpdate_xor

/-- Settles O25: each iteration is injective, and there are finitely many accumulators. -/
theorem byteUpdatesAreBijective : Obligations.ByteUpdatesAreBijective :=
  fun v b => Finite.injective_iff_bijective.1 (byteUpdate_injective v b)

/-- Settles O33: the fold goes on from the result over the two bytes of the result itself. -/
theorem appendedResultLeavesZero : Obligations.AppendedResultLeavesZero := by
  intro seed b
  exact ⟨(bufferUpdate_append .ccitt seed b _).trans (byteUpdateCcitt_own_bytes _),
    (bufferUpdate_append .ccittFalse seed b _).trans (byteUpdateFalse_own_bytes _)⟩

/-- Settles O50: no parameter has a part in the block's reset, nor in a lookup, whose entry is the generated one. -/
theorem resetLeavesNothingInProgress : Obligations.ResetLeavesNothingInProgress :=
  fun p => ⟨rfl, rfl, fun i => by rw [exec_ccittLookup, tCcitt_eq_generate],
    fun i => by rw [exec_falseLookup, tFalse_eq_generate]⟩

end Sys2Proof.Machine
end

section
/-! Runs (70_reset_and_hazards.md section 5): the mark of a refused request, what a run carries of its parameters (R22), and
that a list of requests over readable buffers comes to its finish, past refused requests (R157; log entry 10). -/

namespace Sys2Proof.Machine

/-! ## The mark -/

theorem Run.after_succ (n : Nat) (r : Run) : r.after (n + 1) = r.next.after n := rfl

theorem Run.marked_iff {r : Run} : r.marked = true ↔ r.refused ≠ [] := by
  simp [Run.marked]

theorem Run.next_marked {r : Run} (h : r.marked = true) : r.next.marked = true := by
  obtain ⟨l, hl⟩ := Run.next_refused r
  rw [Run.marked_iff] at h ⊢
  simp [hl, h]

/-- What every step of a run keeps holds after any number of steps. -/
theorem Run.after_keeps {P : Run → Prop} (hnext : ∀ r, P r → P r.next) {r : Run} (h : P r) (n : Nat) : P (r.after n) := by
  induction n generalizing r with
  | zero => exact h
  | succ n ih => exact ih (hnext r h)

/-! ## What a run carries of its parameters -/

section Carries

variable {α : Type} {put : Slot → Word → α → α} {rs : List Response}

/-- Further responses do not change which one is found. -/
theorem responseTo_append {ticket : Nat} {v : Word} (h : responseTo ticket rs = some v) (rs' : List Response) :
    responseTo ticket (rs ++ rs') = some v := by
  obtain ⟨r, hr, rfl⟩ := Option.map_eq_some_iff.1 h
  rw [responseTo, List.find?_append, hr]
  rfl

theorem fill_append {links : List Link} {x y : α} (h : fill put rs links x = some y) (rs' : List Response) :
    fill put (rs ++ rs') links x = some y := by
  induction links generalizing x with
  | nil => exact h
  | cons l ls ih =>
    cases hv : responseTo l.ticket rs with
    | none => simp [fill, hv] at h
    | some v =>
      simp only [fill, hv] at h
      simp only [fill, responseTo_append hv]
      exact ih h

/-- Every write among the events has the responses that it uses. -/
def Filled (rs : List Response) (es : List Event) : Prop :=
  ∀ links a v, .callerWrite links a v ∈ es → ∃ w, fill putWrite rs links (a, v) = some w

theorem Filled.append {es : List Event} (h : Filled rs es) (rs' : List Response) : Filled (rs ++ rs') es :=
  fun links a v hmem => (h links a v hmem).imp fun _ hw => fill_append hw rs'

theorem Memory.afterEvents_snoc (m : Memory) (es : List Event) (e : Event) :
    m.afterEvents rs (es ++ [e]) = (m.afterEvents rs es).afterEvents rs [e] := by
  induction es generalizing m with
  | nil => cases e <;> rfl
  | cons e' es ih =>
    cases e' with
    | request links r => exact ih m
    | callerWrite links a v =>
      cases hf : fill putWrite rs links (a, v) with
      | none => simpa [Memory.afterEvents, hf] using ih m
      | some w => simpa [Memory.afterEvents, hf] using ih (m.set w.1 w.2)
    | reset => exact ih m

/-- Further responses do not change what was written with those there. -/
theorem Memory.afterEvents_responses {es : List Event} (h : Filled rs es) (rs' : List Response) (m : Memory) :
    m.afterEvents (rs ++ rs') es = m.afterEvents rs es := by
  induction es generalizing m with
  | nil => rfl
  | cons e es ih =>
    have hes : Filled rs es := fun links a v hmem => h links a v (List.mem_cons_of_mem e hmem)
    cases e with
    | request links r => exact ih hes m
    | callerWrite links a v =>
      obtain ⟨w, hw⟩ := h links a v List.mem_cons_self
      simpa [Memory.afterEvents, hw, fill_append hw rs'] using ih hes (m.set w.1 w.2)
    | reset => exact ih hes m

/-- `s` has made its moves by the choices of `p` and taken `k` of its inputs, and its memory is that of `p` with the writes
among those `k`, each filled when it was taken. -/
structure State.Carries (p : Parameters) (k : Nat) (s : State) : Prop where
  schedule : s.schedule = p.schedule.drop s.turn
  inputs : s.inputs = p.inputs.drop k
  mem : s.mem = p.mem.afterEvents s.responses (p.inputs.take k)
  filled : Filled s.responses (p.inputs.take k)

variable {p : Parameters} {k : Nat} {s t : State}

/-- A move that takes no input. -/
theorem State.Carries.of_moved (h : s.Carries p k) (hschedule : t.schedule = s.schedule.tail)
    (hturn : t.turn = s.turn + 1) (hinputs : t.inputs = s.inputs) (hmem : t.mem = s.mem)
    (hresponses : s.responses <+: t.responses) : t.Carries p k := by
  obtain ⟨l, hl⟩ := hresponses
  refine ⟨?_, hinputs.trans h.inputs, ?_, hl ▸ h.filled.append l⟩
  · rw [hschedule, hturn, h.schedule, List.tail_drop]
  · rw [hmem, ← hl, Memory.afterEvents_responses h.filled, ← h.mem]

/-- A move that takes the input `e`. -/
theorem State.Carries.of_taken {e : Event} {rest : List Event} (h : s.Carries p k) (hin : s.inputs = e :: rest)
    (hfilled : Filled s.responses [e]) (hschedule : t.schedule = s.schedule.tail) (hturn : t.turn = s.turn + 1)
    (hinputs : t.inputs = s.inputs.tail) (hmem : t.mem = s.mem.afterEvents s.responses [e])
    (hresponses : s.responses <+: t.responses) : t.Carries p (k + 1) := by
  obtain ⟨l, hl⟩ := hresponses
  have htake : p.inputs.take (k + 1) = p.inputs.take k ++ [e] := by
    have hget : p.inputs[k]? = some e := by rw [← List.head?_drop, ← h.inputs, hin, List.head?_cons]
    rw [List.take_add_one, hget, Option.toList_some]
  have hall : Filled s.responses (p.inputs.take (k + 1)) := by
    intro links a v hmem
    rw [htake] at hmem
    exact (List.mem_append.1 hmem).elim (h.filled links a v) (hfilled links a v)
  refine ⟨?_, ?_, ?_, hl ▸ hall.append l⟩
  · rw [hschedule, hturn, h.schedule, List.tail_drop]
  · rw [hinputs, h.inputs, List.tail_drop]
  · rw [hmem, ← hl, Memory.afterEvents_responses hall, htake, Memory.afterEvents_snoc, ← h.mem]

theorem step_responses_prefix (h : step s = .next t) : s.responses <+: t.responses := by
  obtain heq | ⟨r, heq⟩ := step_responses h <;> rw [heq]
  exact List.prefix_append _ _

theorem inputs_of_present {r : Request Config.addrWidth} (h : s.nextTransition = some (.present r)) :
    ∃ links r₀ rest, s.inputs = .request links r₀ :: rest ∧ fill Request.put s.responses links r₀ = some r := by
  obtain ⟨r', heq, hin⟩ | ⟨w, heq, -⟩ | ⟨heq, -⟩ := State.mem_enabledInput (State.present_mem_enabledInput h) <;>
    cases heq
  exact hin

theorem exec_toParameters {i : Instr} (h : exec i s = .next t) : t.toParameters = s.toParameters ∧ t.turn = s.turn := by
  obtain ⟨hparameters, hturn, -⟩ := instructionFrame i s t h
  exact ⟨hparameters, hturn⟩

theorem step_carries (h : step s = .next t) (hs : s.Carries p k) : ∃ k', t.Carries p k' := by
  have hresponses := step_responses_prefix h
  rcases step_next h with ⟨-, -, rfl⟩ | ⟨r, i, hn, -, he⟩ | ⟨a, v, hn, he⟩ | ⟨hn, rfl⟩ | ⟨j, w, b, -, rfl⟩ |
    ⟨j, w, -, rfl⟩
  · exact ⟨k, hs⟩
  · obtain ⟨links, r₀, rest, hin, -⟩ := inputs_of_present hn
    obtain ⟨hparameters, hturn⟩ := exec_toParameters he
    exact ⟨k + 1, hs.of_taken hin (by simp [Filled]) (congrArg Parameters.schedule hparameters) hturn
      (congrArg Parameters.inputs hparameters) ((congrArg Parameters.mem hparameters).trans s.taken_mem) hresponses⟩
  · obtain ⟨-, rfl⟩ := State.callerWrite_next he
    obtain ⟨r, heq, -⟩ | ⟨w, heq, links, a₀, v₀, rest, hin, hw⟩ | ⟨heq, -⟩ :=
      State.mem_enabledInput (State.callerWrite_mem_enabledInput hn) <;> cases heq
    refine ⟨k + 1, hs.of_taken hin (fun links' a' v' hmem => ?_) rfl rfl rfl ?_ hresponses⟩
    · cases List.mem_singleton.1 hmem
      exact ⟨w, hw⟩
    · simp [Memory.afterEvents, hw]
  · have hmem := (List.mem_append.1 (State.nextTransition_mem hn)).resolve_right fun h => by
      simpa using State.mem_enabledWorks_cases h
    obtain ⟨r, heq, -⟩ | ⟨w, heq, -⟩ | ⟨-, rest, hin⟩ := State.mem_enabledInput hmem
    · cases heq
    · cases heq
    · exact ⟨k + 1, hs.of_taken hin (by simp [Filled]) rfl rfl rfl rfl hresponses⟩
  · exact ⟨k, hs.of_moved rfl rfl rfl rfl hresponses⟩
  · exact ⟨k, hs.of_moved rfl rfl rfl rfl hresponses⟩

end Carries

/-- A refusal takes the request and nothing else, a fault leaves the state as it is. -/
theorem Run.next_carries {p : Parameters} {r : Run} (h : ∃ k, r.state.Carries p k) :
    ∃ k, r.next.state.Carries p k := by
  obtain ⟨k, hk⟩ := h
  unfold Run.next
  split
  · exact ⟨k, hk⟩
  · split
    · next t ht => exact step_carries ht hk
    · exact ⟨k, hk⟩
    · next x hx =>
      obtain ⟨r', hn⟩ := present_of_step_refused hx
      obtain ⟨links, r₀, rest, hin, -⟩ := inputs_of_present hn
      exact ⟨k + 1, hk.of_taken hin (by simp [Filled]) rfl rfl rfl rfl (List.prefix_refl _)⟩

theorem State.resetWith_carries (p : Parameters) : (State.resetWith p).Carries p 0 :=
  ⟨rfl, rfl, rfl, by simp [Filled]⟩

/-! ## Requests that can be served to their end -/

/-- What a run over readable buffers keeps until its finish. -/
structure State.Serving (s : State) : Prop where
  noneLost : s.NoneLost
  readable : s.Readable
  servable : Servable s.mem s.inputs s.accepted

theorem Servable.request_of_mem {m : Memory} {e : Event} {rest : List Event} {n : Nat} (h : Servable m (e :: rest) n) :
    ∃ links r, e = .request links r := by
  cases e with
  | request links r => exact ⟨links, r, rfl⟩
  | callerWrite links a v => exact h.elim
  | reset => exact h.elim

/-- With all its responses there, what is presented is filled. -/
theorem fill_of_responses {α : Type} {put : Slot → Word → α → α} {rs : List Response} {links : List Link}
    (h : ∀ l ∈ links, ∃ r ∈ rs, r.ticket = l.ticket) (x : α) : ∃ y, fill put rs links x = some y := by
  induction links generalizing x with
  | nil => exact ⟨x, rfl⟩
  | cons l ls ih =>
    obtain ⟨r, hr, hticket⟩ := h l List.mem_cons_self
    have hfound : (rs.find? fun r => r.ticket == l.ticket).isSome = true :=
      List.find?_isSome.2 ⟨r, hr, by simpa using hticket⟩
    obtain ⟨r', hr'⟩ := Option.isSome_iff_exists.1 hfound
    simp only [fill, responseTo, hr', Option.map_some]
    exact ih (fun l' hl' => h l' (List.mem_cons_of_mem l hl')) _

section Serving

variable {s t : State}

/-- With nothing in progress every request accepted has its response, so the first input does not wait. -/
theorem State.Serving.exists_nextTransition (h : s.Serving) (hnot : ¬ (s.inputs = [] ∧ s.works = [])) :
    ∃ tr, s.nextTransition = some tr := by
  by_cases hw : s.works = []
  · obtain ⟨e, rest, hin⟩ := List.exists_cons_of_ne_nil fun hin => hnot ⟨hin, hw⟩
    have hserv := h.servable
    rw [hin] at hserv
    obtain ⟨links, r, rfl⟩ := hserv.request_of_mem
    have hresponses : ∀ l ∈ links, ∃ x ∈ s.responses, x.ticket = l.ticket := fun l hl => by
      simpa [State.tickets, hw] using h.noneLost l.ticket (hserv.1 l hl)
    obtain ⟨r', hr'⟩ := fill_of_responses (put := Request.put) hresponses r
    refine ⟨.present r', State.nextTransition_of_input ?_ (.inl hw)⟩
    rw [State.enabledInput_request hin, hr']
    rfl
  · exact State.nextTransition_of_readable hw h.readable

theorem State.BlockMove.serving (h : s.BlockMove t) (hs : s.Serving) : t.Serving where
  noneLost := h.continues.noneLost hs.noneLost
  readable := h.readable hs.readable
  servable := by cases h <;> exact hs.servable

/-- A block's own transition that moves. -/
theorem step_of_enabledWorks {tr : Transition} (hn : s.nextTransition = some tr) (h : tr ∈ s.enabledWorks) :
    ∃ t, step s = .next t ∧ s.BlockMove t := by
  obtain ⟨k, w, hk, hw⟩ := State.mem_enabledWorks.1 h
  obtain ⟨hdone, rfl⟩ | ⟨hlt, b, hb, rfl⟩ := Work.enabled_cases hw
  · exact ⟨_, step_deliver hn, .deliver hk hdone⟩
  · exact ⟨_, step_byteStep hn, .byteStep hk hlt hb⟩

theorem bufferReadable_bufferUpdateInstr (m : Memory) (v : Variant) (seed : Word) (addr len : BitVec Config.addrWidth) :
    bufferReadable m (bufferUpdateInstr v seed addr len) ↔ (m.buffer addr.toNat len.toNat).isSome = true := by
  cases v <;> rfl

theorem exec_keeps_readable {i : Instr} (h : exec i s = .next t) (hi : bufferReadable s.mem i) (hs : s.Readable) :
    t.Readable := by
  obtain ⟨v, hv⟩ | ⟨v, seed, addr, len, rfl⟩ := answer_or_bufferUpdate i
  · cases (exec_of_answer hv s).symm.trans h
    exact hs
  · rw [exec_bufferUpdateInstr] at h
    obtain ⟨-, rfl⟩ := State.accept_next h
    intro w hw
    rcases List.mem_append.1 hw with hw | hw
    · exact hs w hw
    · obtain rfl := List.mem_singleton.1 hw
      exact ⟨Nat.zero_le _, (bufferReadable_bufferUpdateInstr s.mem v seed addr len).1 hi⟩

theorem exec_keeps_noneLost {i : Instr} (h : exec i s = .next t) (hs : s.NoneLost) : t.NoneLost := by
  obtain ⟨haccepted, hperm⟩ := exec_tickets h
  intro ticket hlt
  rw [haccepted] at hlt
  refine hperm.mem_iff.2 ?_
  rcases Nat.lt_succ_iff_lt_or_eq.1 hlt with hlt | rfl
  · exact List.mem_cons_of_mem _ (hs ticket hlt)
  · exact List.mem_cons_self

/-- A step of the run on from `s`, and what it has to bring: serving on, nearer to the finish. -/
def State.Progress (s t : State) : Prop :=
  t.Serving ∧ t.mem = s.mem ∧ Prod.Lex (· < ·) (· < ·) (t.inputs.length, t.workload) (s.inputs.length, s.workload)

/-- A request presented is refused, and the run goes on behind it, or it is answered or accepted. -/
theorem State.Serving.present (h : s.Serving) {r : Request Config.addrWidth} (hn : s.nextTransition = some (.present r)) :
    ((∃ x, step s = .refused x) ∧ s.Progress s.taken) ∨ ∃ t, step s = .next t ∧ s.Progress t := by
  obtain ⟨links, r₀, rest, hin, hfill⟩ := inputs_of_present hn
  have hserv := h.servable
  rw [hin] at hserv
  obtain ⟨hgoes, hrefused⟩ := hserv.2 s.responses r hfill
  have hshorter : s.inputs.tail.length < s.inputs.length := by simp [hin]
  have htail : s.inputs.tail = rest := by rw [hin, List.tail_cons]
  have hpassed (hno : ∀ i, decode r = .ok i → i.wf = false) : s.Progress s.taken :=
    ⟨⟨h.noneLost, h.readable, by rw [State.taken_inputs, htail]; exact hrefused hno⟩, rfl, .left _ _ hshorter⟩
  cases hd : decode r with
  | error e =>
    exact .inl ⟨⟨_, (step_present hn).trans (serve_of_decode_error hd s.taken)⟩, hpassed (by simp [hd])⟩
  | ok i =>
    have hstep : step s = exec i s.taken := step_of_decode hn hd
    cases hwf : i.wf with
    | false =>
      exact .inl ⟨⟨_, hstep.trans (exec_of_not_wf hwf s.taken)⟩, hpassed (by simp [hd, hwf])⟩
    | true =>
      obtain ⟨hreadable, hrest⟩ := hgoes i hd hwf
      obtain ⟨t, ht⟩ := exec_of_wf hwf s.taken
      have hparameters := (exec_toParameters ht).1
      have hinputs : t.inputs = s.inputs.tail := congrArg Parameters.inputs hparameters
      have hmem : t.mem = s.mem := (congrArg Parameters.mem hparameters).trans s.taken_mem
      have hserving : t.Serving :=
        ⟨exec_keeps_noneLost ht h.noneLost, exec_keeps_readable ht hreadable h.readable, by
          rw [hinputs, htail, hmem, (exec_tickets ht).1]
          exact hrest⟩
      exact .inr ⟨t, hstep.trans ht, hserving, hmem, .left _ _ (by rw [hinputs]; exact hshorter)⟩

/-- Until nothing waits and nothing is in progress, the run makes progress, whatever the choice. -/
theorem State.Serving.progress (h : s.Serving) (hnot : ¬ (s.inputs = [] ∧ s.works = [])) :
    ((∃ x, step s = .refused x) ∧ s.Progress s.taken) ∨ ∃ t, step s = .next t ∧ s.Progress t := by
  obtain ⟨tr, hn⟩ := h.exists_nextTransition hnot
  rcases List.mem_append.1 (State.nextTransition_mem hn) with hinput | hworks
  · have hserv := h.servable
    obtain ⟨r, rfl, -⟩ | ⟨w, -, links, a, v, rest, hin, -⟩ | ⟨-, rest, hin⟩ := State.mem_enabledInput hinput
    · exact h.present hn
    · rw [hin] at hserv
      exact hserv.elim
    · rw [hin] at hserv
      exact hserv.elim
  · obtain ⟨t, ht, hmove⟩ := step_of_enabledWorks hn hworks
    refine .inr ⟨t, ht, hmove.serving h, by cases hmove <;> rfl, ?_⟩
    rw [hmove.continues.inputs]
    exact .right _ (by rw [hmove.workload_eq]; exact Nat.lt_succ_self _)

theorem State.Serving.next (h : s.Serving) (hnot : ¬ (s.inputs = [] ∧ s.works = [])) (refused : List Refusal) :
    ∃ t l, (Run.mk s refused none).next = Run.mk t l none ∧ s.Progress t := by
  obtain ⟨⟨x, hx⟩, hprogress⟩ | ⟨t, ht, hprogress⟩ := h.progress hnot
  · exact ⟨s.taken, _, Run.next_of_refused rfl hx, hprogress⟩
  · exact ⟨t, refused, Run.next_of_next rfl ht, hprogress⟩

theorem State.Serving.finishes {s : State} (h : s.Serving) (refused : List Refusal) :
    ∃ n, ((Run.mk s refused none).after n).finished = true ∧ ((Run.mk s refused none).after n).stopped = none ∧
      ((Run.mk s refused none).after n).state.mem = s.mem := by
  by_cases hdone : s.inputs = [] ∧ s.works = []
  · exact ⟨0, State.finished_of_noneLost hdone.1 hdone.2 h.noneLost, rfl, rfl⟩
  · obtain ⟨t, l, hnext, hserving, hmem, hless⟩ := h.next hdone refused
    obtain ⟨n, hn⟩ := hserving.finishes l
    exact ⟨n + 1, by rwa [Run.after_succ, hnext, ← hmem]⟩
termination_by (s.inputs.length, s.workload)
decreasing_by exact hless

end Serving

/-! ## The statements -/

/-- Settles O43: the refused request is taken and nothing else changes; the mark is an entry of a list that only grows. -/
theorem refusedRequestMarksTheRun : Obligations.RefusedRequestMarksTheRun := by
  refine ⟨fun r x h0 h => ?_, fun r n h => ?_⟩
  · have hnext := Run.next_of_refused h0 h
    refine ⟨hnext, ?_, fun ticket v ho => ?_⟩
    · rw [Run.marked_iff, hnext]
      simp
    · rw [hnext]
      exact ho.mono rfl (fun _ => id) fun _ => id
  · exact Run.after_keeps (P := fun r => r.marked = true) (fun _ => Run.next_marked) h n

/-- Settles O44: each step serves on and is nearer to the finish. -/
theorem runOverReadableBuffersFinishes : Obligations.RunOverReadableBuffersFinishes := by
  intro s hnone hreadable hservable
  obtain ⟨n, hfinished, hstopped, -⟩ := State.Serving.finishes ⟨hnone, hreadable, hservable⟩ []
  exact ⟨n, hfinished, hstopped⟩

/-- Settles O54: at reset no request is accepted and nothing is in progress, so none is lost. -/
theorem runFromResetFinishesUnderAnyParameters : Obligations.RunFromResetFinishesUnderAnyParameters := by
  intro p hservable
  have hserving : (State.resetWith p).Serving := ⟨by simp [State.NoneLost], by simp [State.Readable], hservable⟩
  exact hserving.finishes []

/-- Settles O53: every step, past a refusal too, takes one choice or waits, and takes one input or none. -/
theorem runOnlyCarriesItsParameters : Obligations.RunOnlyCarriesItsParameters := by
  intro p n
  obtain ⟨k, hk⟩ := Run.after_keeps (P := fun r => ∃ k, r.state.Carries p k) (fun _ => Run.next_carries)
    (r := Run.start (State.resetWith p)) ⟨0, State.resetWith_carries p⟩ n
  exact ⟨k, hk.schedule, hk.inputs, hk.mem⟩

/-- Settles O45: the three conditions that `finished` tests. -/
theorem unansweredRequestIsUnfinished : Obligations.UnansweredRequestIsUnfinished := by
  intro s
  simp [State.finished, State.answered, and_assoc]

end Sys2Proof.Machine
end

section
/-! The buffer-updates as remainders (00_scope.md section 8): a bit vector is a polynomial over GF(2), one iteration of the
division multiplies it by x modulo the generator, and so the fold over a message multiplies and adds modulo the generator;
the CCITT variant is the other one with its bits reversed. -/

namespace Sys2Proof.Machine

open Polynomial

/-! ## The polynomial of a bit vector -/

section BitPoly

variable {n : Nat}

theorem bitPoly_coeff (v : BitVec n) (k : Nat) : (bitPoly v).coeff k = if v.getLsbD k then 1 else 0 := by
  have hterm : ∀ i, (if v.getLsbD i then (X : (ZMod 2)[X]) ^ i else 0).coeff k =
      if k = i then (if v.getLsbD k then 1 else 0) else 0 := fun i => by
    by_cases hk : k = i
    · subst hk
      cases v.getLsbD k <;> simp
    · cases v.getLsbD i <;> simp [coeff_X_pow, hk]
  rw [bitPoly, finsetSum_coeff, Finset.sum_congr rfl fun i _ => hterm i, Finset.sum_ite_eq]
  by_cases hk : k < n
  · simp [hk]
  · simp [BitVec.getLsbD_of_ge v k (by omega)]

@[simp] theorem bitPoly_zero : bitPoly 0#n = 0 := by
  ext k
  simp [bitPoly_coeff]

/-- Over GF(2) exclusive-or is addition. -/
theorem bitPoly_xor (v w : BitVec n) : bitPoly (v ^^^ w) = bitPoly v + bitPoly w := by
  ext k
  simp only [coeff_add, bitPoly_coeff, BitVec.getLsbD_xor]
  cases v.getLsbD k <;> cases w.getLsbD k <;> decide

theorem degree_bitPoly_lt (v : BitVec n) : (bitPoly v).degree < n := by
  refine (degree_lt_iff_coeff_zero _ _).2 fun k hk => ?_
  rw [bitPoly_coeff, BitVec.getLsbD_of_ge v k hk]
  rfl

end BitPoly

/-! ## The generator -/

theorem generator_eq : generator = X ^ 16 + bitPoly poly := by
  have hpoly : bitPoly poly = X ^ 12 + X ^ 5 + 1 := by
    simp [bitPoly, poly, Finset.sum_range_succ]
    ring
  rw [hpoly, generator]
  ring

theorem generator_monic : generator.Monic := by
  rw [generator_eq]
  exact monic_X_pow_add (degree_bitPoly_lt poly)

theorem degree_generator : generator.degree = (16 : Nat) := by
  rw [generator_eq, degree_add_eq_left_of_degree_lt] <;> rw [degree_X_pow]
  exact degree_bitPoly_lt poly

/-! ## Modulo the generator -/

/-- A polynomial modulo the generator. -/
noncomputable def residue : (ZMod 2)[X] →+* AdjoinRoot generator := AdjoinRoot.mk generator

theorem residue_generator : residue generator = 0 := AdjoinRoot.mk_self

theorem residue_eq_iff {p q : (ZMod 2)[X]} : residue p = residue q ↔ generator ∣ p - q := AdjoinRoot.mk_eq_mk

/-- What agrees modulo the generator with the polynomial of 16 bits has it as its remainder. -/
theorem bitPoly_eq_modByMonic {v : Word} {p : (ZMod 2)[X]} (h : residue (bitPoly v) = residue p) :
    bitPoly v = p %ₘ generator := by
  have hdegree : (bitPoly v).degree < generator.degree := by
    rw [degree_generator]
    exact degree_bitPoly_lt v
  rw [← modByMonic_eq_of_dvd_sub generator_monic (residue_eq_iff.1 h)]
  exact ((modByMonic_eq_self_iff generator_monic).2 hdegree).symm

theorem bitPoly_shiftLeft_one (r : Word) :
    bitPoly (r <<< 1) = X * bitPoly r + bif r.getLsbD 15 then X ^ 16 else 0 := by
  ext k
  cases k with
  | zero => cases r.getLsbD 15 <;> simp [bitPoly_coeff]
  | succ k =>
    rw [coeff_add, coeff_X_mul, bitPoly_coeff, bitPoly_coeff, BitVec.getLsbD_shiftLeft]
    rcases lt_trichotomy k 15 with hk | rfl | hk
    · cases r.getLsbD 15 <;> simp [coeff_X_pow, hk.ne, show k + 1 < 16 by omega]
    · cases r.getLsbD 15 <;> simp [CharTwo.add_self_eq_zero]
    · have hout : r.getLsbD k = false := BitVec.getLsbD_of_ge r k hk
      cases r.getLsbD 15 <;> simp [coeff_X_pow, hk.ne', hout]

/-- One iteration of the division multiplies by x. -/
theorem residue_divideBit (r : Word) : residue (bitPoly (divideBit r)) = residue X * residue (bitPoly r) := by
  rw [divideBit_eq, bitPoly_xor, bitPoly_shiftLeft_one, ← map_mul]
  cases r.getLsbD 15 with
  | false => simp
  | true =>
    rw [cond_true, cond_true, add_assoc, ← generator_eq, map_add, residue_generator, add_zero]

theorem residue_eightTimes (r : Word) :
    residue (bitPoly (eightTimes divideBit r)) = residue X ^ 8 * residue (bitPoly r) := by
  simp only [eightTimes, residue_divideBit]
  ring

theorem bitPoly_zext16_shiftLeft (b : Byte) : bitPoly (zext16 b <<< 8) = X ^ 8 * bitPoly b := by
  ext k
  rw [coeff_X_pow_mul', bitPoly_coeff, bitPoly_coeff, BitVec.getLsbD_shiftLeft, zext16, BitVec.getLsbD_setWidth]
  rcases lt_or_ge k 8 with h8 | h8
  · simp [h8, h8.not_ge]
  · rcases lt_or_ge k 16 with h16 | h16
    · simp [h8, h8.not_gt, h16, show k - 8 < 16 by omega]
    · simp [BitVec.getLsbD_of_ge b (k - 8) (by omega)]

theorem residue_byteUpdateFalse (crc : Word) (b : Byte) :
    residue (bitPoly (byteUpdateFalse crc b)) =
      residue X ^ 8 * (residue (bitPoly crc) + residue X ^ 8 * residue (bitPoly b)) := by
  have height : byteUpdateFalse crc b = eightTimes divideBit (crc ^^^ (zext16 b <<< 8)) :=
    byteUpdate_eq_eightTimes .ccittFalse crc b
  rw [height, residue_eightTimes, bitPoly_xor, bitPoly_zext16_shiftLeft, map_add, map_mul, map_pow]

/-! ## The fold -/

theorem messagePoly_append (b : List Byte) (x : Byte) : messagePoly (b ++ [x]) = messagePoly b * X ^ 8 + bitPoly x := by
  simp [messagePoly]

/-- Byte by byte, from the front: what is there moves up by 8 and the byte is added at x^16. -/
theorem residue_bufferUpdateFalse (seed : Word) (b : List Byte) :
    residue (bitPoly (bufferUpdateFalse seed b)) =
      residue (bitPoly seed * X ^ (8 * b.length) + messagePoly b * X ^ 16) := by
  induction b using List.reverseRecOn with
  | nil => simp [bufferUpdateFalse, messagePoly]
  | append_singleton b x ih =>
    have hlast : bufferUpdateFalse seed (b ++ [x]) = byteUpdateFalse (bufferUpdateFalse seed b) x :=
      bufferUpdate_append .ccittFalse seed b [x]
    rw [hlast, residue_byteUpdateFalse, ih, messagePoly_append, List.length_append, List.length_singleton]
    simp only [map_add, map_mul, map_pow]
    ring

theorem reverse_bufferUpdateCcitt (seed : Word) (b : List Byte) :
    (bufferUpdateCcitt seed b).reverse = bufferUpdateFalse seed.reverse (b.map BitVec.reverse) := by
  rw [bufferUpdateCcitt, bufferUpdateFalse, List.foldl_map]
  exact (List.foldl_hom BitVec.reverse fun crc byte => (reverse_byteUpdateCcitt crc byte).symm).symm

/-! ## The statement -/

/-- Settles O34: the fold and the polynomial agree modulo the generator, and the fold has only 16 bits; the CCITT variant by
reversal. -/
theorem bufferUpdatesAreRemainders : Obligations.BufferUpdatesAreRemainders := by
  intro seed b
  refine ⟨bitPoly_eq_modByMonic (residue_bufferUpdateFalse seed b), ?_⟩
  have h := bitPoly_eq_modByMonic (residue_bufferUpdateFalse seed.reverse (b.map BitVec.reverse))
  rwa [← reverse_bufferUpdateCcitt, List.length_map] at h

end Sys2Proof.Machine
end
